-- ==== Sys2Proof/Word.lean ====
section
/-! DEFINITION. Word.lean: the widths of the RC4 Engine's values (spec 00_scope.md R7, R8). Every value is unsigned (R8). -/

namespace Sys2Proof

/-- A byte value 0..255 (R8): an S-box entry, an index, a key byte, a data byte. -/
abbrev Byte := BitVec 8

/-- The 32-bit command word `cmd[31:0]` (R46). -/
abbrev Word32 := BitVec 32

/-- The 16-bit response word (R25). -/
abbrev Word16 := BitVec 16

/-- A count of `DROP_W` = 28 bits (R7, R50). -/
abbrev Count := BitVec 28

/-- The 9-bit key length field `KLEN` (R51). -/
abbrev KeyLen := BitVec 9

/-- One of the engine's two index spaces: 256 bytes, indexed 0..255 (R31). -/
abbrev Table := Vector Byte 256

end Sys2Proof
end

