-- ==== Sys2Proof/Config.lean ====
section
/-! DEFINITION. Config.lean: the parameters of spec 00_scope.md R7, and the free values the spec leaves open.
An `opaque` constant has no body: no proof can see its value, so a theorem holds for every value of it. DESIGN CHOICE
(unsafe, log 22): the values are one for all engines and runs, so two that draw at the same index draw the same value. -/

namespace Sys2Proof

/-- `KEY_MIN`, the shortest legal key (R7). -/
def Config.keyMin : Nat := 1

/-- `KEY_MAX`, the longest legal key and the size of the key staging buffer (R7). -/
def Config.keyMax : Nat := 256

/-- `DROPN_RESET`, the default drop count (R7, R28). -/
def Config.dropnReset : Count := 3072#28

/-- `LAT_NOP` less one. OPEN (R7, Q2): free. -/
opaque Config.latNopLessOne : Nat
/-- `LAT_KEYB` less one. OPEN (R7, Q2): free. -/
opaque Config.latKeybLessOne : Nat
/-- `LAT_SETDROP` less one. OPEN (R7, Q2): free. -/
opaque Config.latSetdropLessOne : Nat
/-- `LAT_INIT(L, d)` less one. OPEN (R7, Q2): free. -/
opaque Config.latInitLessOne : Nat → Nat → Nat
/-- `LAT_DROP(n)` less one. OPEN (R7, Q2): free. -/
opaque Config.latDropLessOne : Nat → Nat
/-- `LAT_XFORM` less one. OPEN (R7, Q2): free. -/
opaque Config.latXformLessOne : Nat
/-- The latency of an illegal word, less one. The spec answers such a word "as usual" (R81) and gives it no `LAT_`
parameter. DESIGN CHOICE (safe): a free value of its own (log 10). -/
opaque Config.latIllegalLessOne : Nat

/-- `LAT_NOP`, at least 1 and finite (R7, R113). -/
def Config.latNop : Nat := Config.latNopLessOne + 1
/-- `LAT_KEYB`, at least 1 and finite (R7, R113). -/
def Config.latKeyb : Nat := Config.latKeybLessOne + 1
/-- `LAT_SETDROP`, at least 1 and finite (R7, R113). -/
def Config.latSetdrop : Nat := Config.latSetdropLessOne + 1
/-- `LAT_INIT(L, d)`, at least 1 and finite (R7, R113). -/
def Config.latInit (keyLength dropCount : Nat) : Nat := Config.latInitLessOne keyLength dropCount + 1
/-- `LAT_DROP(n)`, at least 1 and finite (R7, R113). -/
def Config.latDrop (n : Nat) : Nat := Config.latDropLessOne n + 1
/-- `LAT_XFORM`, at least 1 and finite (R7, R113). -/
def Config.latXform : Nat := Config.latXformLessOne + 1
/-- The latency of an illegal word (log 10). -/
def Config.latIllegal : Nat := Config.latIllegalLessOne + 1

/-- The cycles beyond `LAT_<command>` that the n-th accepted command takes: "After `LAT_<command>` cycles or more"
(R24). Free, one value for each index of `State.freeIndex` (log 10). -/
opaque Config.stall : Nat → Nat

/-- What entry `a` of `S` holds after the reset edge of the given index: unspecified (R28, R101, U1, U3). Free (log 3). -/
opaque Config.unspecifiedS : Nat → Byte → Byte
/-- What `I` holds after the reset edge of the given index: unspecified (R28, R101, U1, U3). Free (log 3). -/
opaque Config.unspecifiedI : Nat → Byte
/-- What `J` holds after the reset edge of the given index: unspecified (R28, R101, U1, U3). Free (log 3). -/
opaque Config.unspecifiedJ : Nat → Byte
/-- What entry `a` of `K` holds after the reset edge of the given index: unspecified (R28, R101, U2). Free (log 3). -/
opaque Config.unspecifiedK : Nat → Byte → Byte

end Sys2Proof
end

