-- ==== Sys2Proof/Syntax.lean ====
section
/-! DEFINITION. Syntax.lean: the six commands of the opcode map (spec 30_encoding.md R53), with their operand fields.
An illegal word (R54) is no command: the decoder rejects it by name and the machine answers it (R81). -/

namespace Sys2Proof

/-- One constructor for each row of spec/opcode_table.json; operands have the widths of their fields (R47 to R52, R57). -/
inductive Instr where
  /-- NOP: report status (R80). -/
  | nop
  /-- KEYB IDX, KDATA: write one byte of the key staging buffer (R66). -/
  | keyb (idx : Byte) (kdata : Byte)
  /-- SETDROP CNT: set the drop count used by the next INIT (R67). -/
  | setdrop (cnt : Count)
  /-- INIT KLEN: construct the engine (R68). -/
  | init (klen : KeyLen)
  /-- DROP CNT: advance the keystream and discard it (R74). -/
  | drop (cnt : Count)
  /-- XFORM DIN: transform one byte (R75). -/
  | xform (din : Byte)
deriving DecidableEq, Repr

end Sys2Proof
end

