-- ==== Sys2Proof/WellFormed.lean ====
section
/-! DEFINITION. WellFormed.lean: the range checks on operands (spec 30_encoding.md R58, R63). An `Instr`'s operands have
the widths of their fields, so every `Instr` passes; the checks bite on the assembler's lines, whose operands are plain
numbers: "An assembler refuses an operand out of its range. It never truncates one." -/

namespace Sys2Proof

/-- The six mnemonics (R53). -/
inductive Mnemonic where
  | nop | keyb | setdrop | init | drop | xform
deriving DecidableEq, Repr

/-- One line of assembly: a mnemonic and its operands as plain numbers (R58). -/
structure SourceLine where
  mnemonic : Mnemonic
  operands : List Nat
deriving DecidableEq, Repr

/-- The operand count and ranges of R58's syntax table. -/
def SourceLine.wellFormed (l : SourceLine) : Bool :=
  match l.mnemonic, l.operands with
  | .nop, [] => true
  | .keyb, [idx, byte] => decide (idx ≤ 255) && decide (byte ≤ 255)
  | .setdrop, [n] => decide (n ≤ 268435455)
  | .init, [len] => decide (len ≤ 511)
  | .drop, [n] => decide (n ≤ 268435455)
  | .xform, [byte] => decide (byte ≤ 255)
  | _, _ => false

/-- The line a command prints as (R59): its mnemonic and its operand fields, zero-extended (R57). -/
def Instr.sourceLine : Instr → SourceLine
  | .nop => ⟨.nop, []⟩
  | .keyb idx kdata => ⟨.keyb, [idx.toNat, kdata.toNat]⟩
  | .setdrop cnt => ⟨.setdrop, [cnt.toNat]⟩
  | .init klen => ⟨.init, [klen.toNat]⟩
  | .drop cnt => ⟨.drop, [cnt.toNat]⟩
  | .xform din => ⟨.xform, [din.toNat]⟩

/-- A command is well formed when its operands lie in the ranges of its fields (R63). -/
abbrev Instr.WellFormed (i : Instr) : Prop := i.sourceLine.wellFormed = true

end Sys2Proof
end

