-- ==== Sys2Proof/Decode.lean ====
section
/-! DEFINITION. Decode.lean: the decoder of spec 30_encoding.md R60, total on every 32-bit word, and the encoder of R58.
It reads no engine state (R56). Both directions of the round trip are R62. -/

namespace Sys2Proof

/-- Why a word is illegal (R54): its opcode is reserved, or a bit its format marks `0` is 1. -/
inductive DecodeError where
  /-- `OP` is 0x6 to 0xF (R54 item 1). -/
  | reservedOpcode (op : BitVec 4)
  /-- `OP` is 0x0, 0x1, 0x3 or 0x5 and a reserved bit is 1 (R54 item 2). -/
  | reservedBit (op : BitVec 4)
deriving DecidableEq, Repr

/-- `OP = cmd[31:28]` (R46). -/
def opcodeField (w : Word32) : BitVec 4 := w.extractLsb' 28 4

/-- The decoder of R60. -/
def decode (w : Word32) : Except DecodeError Instr :=
  let op := opcodeField w
  if op = 0x0#4 then
    if w.extractLsb' 0 28 = 0 then .ok .nop else .error (.reservedBit op)
  else if op = 0x1#4 then
    if w.extractLsb' 16 12 = 0 then .ok (.keyb (w.extractLsb' 8 8) (w.extractLsb' 0 8)) else .error (.reservedBit op)
  else if op = 0x2#4 then .ok (.setdrop (w.extractLsb' 0 28))
  else if op = 0x3#4 then
    if w.extractLsb' 9 19 = 0 then .ok (.init (w.extractLsb' 0 9)) else .error (.reservedBit op)
  else if op = 0x4#4 then .ok (.drop (w.extractLsb' 0 28))
  else if op = 0x5#4 then
    if w.extractLsb' 8 20 = 0 then .ok (.xform (w.extractLsb' 0 8)) else .error (.reservedBit op)
  else .error (.reservedOpcode op)

/-- The encoder: the one word of each command, as R58's syntax table writes it (formats R47; canonical, R62). -/
def encode : Instr → Word32
  | .nop => 0x00000000#32
  | .keyb idx kdata => 0x10000000#32 ||| (idx.setWidth 32 <<< 8) ||| kdata.setWidth 32
  | .setdrop cnt => 0x20000000#32 ||| cnt.setWidth 32
  | .init klen => 0x30000000#32 ||| klen.setWidth 32
  | .drop cnt => 0x40000000#32 ||| cnt.setWidth 32
  | .xform din => 0x50000000#32 ||| din.setWidth 32

/-- The mask column of the opcode map (R53). -/
def Mnemonic.mask : Mnemonic → Word32
  | .nop => 0xFFFFFFFF#32
  | .keyb => 0xFFFF0000#32
  | .setdrop => 0xF0000000#32
  | .init => 0xFFFFFE00#32
  | .drop => 0xF0000000#32
  | .xform => 0xFFFFFF00#32

/-- The match column of the opcode map (R53). -/
def Mnemonic.pattern : Mnemonic → Word32
  | .nop => 0x00000000#32
  | .keyb => 0x10000000#32
  | .setdrop => 0x20000000#32
  | .init => 0x30000000#32
  | .drop => 0x40000000#32
  | .xform => 0x50000000#32

/-- "A word `w` is command `c` exactly when `(w AND mask_c) == match_c`" (R53): the map's own reading of a word, which
the decoder does not use. -/
def Mnemonic.matchesWord (m : Mnemonic) (w : Word32) : Bool := w &&& m.mask == m.pattern

/-- A word put together from the four bytes of a platform's byte-wide link (R34 item 3, Q4). The link's byte order,
`CMD_SERIAL_ORDER`, is open and an argument: `order k` is the place in the word (0 the least significant byte) of the
byte that travels k-th. -/
def wordOfLink (order : Equiv.Perm (Fin 4)) (bytes : Vector Byte 4) : Word32 :=
  let at' (place : Fin 4) : Word32 := (bytes[(order.symm place).val]'(order.symm place).isLt).setWidth 32
  at' 3 <<< 24 ||| at' 2 <<< 16 ||| at' 1 <<< 8 ||| at' 0

/-- The bytes of a word in the order they travel on the link (R34 item 3, Q4). -/
def linkOfWord (order : Equiv.Perm (Fin 4)) (w : Word32) : Vector Byte 4 :=
  Vector.ofFn fun k => w.extractLsb' (8 * (order k).val) 8

/-- The response word on the link, in the link's order for two bytes (R34 item 3, Q4). -/
def linkOfResponse (order : Equiv.Perm (Fin 2)) (r : Word16) : Vector Byte 2 :=
  Vector.ofFn fun k => r.extractLsb' (8 * (order k).val) 8

/-- Decoding any four bytes off a link of any order. -/
def decodeLink (order : Equiv.Perm (Fin 4)) (bytes : Vector Byte 4) : Except DecodeError Instr :=
  decode (wordOfLink order bytes)

/-- The word whose low `nbits` bits are `w`'s and whose other bits are 0, as spec/opcode_table.json numbers them. Every
command is one 32-bit word, carried whole (R46). -/
def tableWord (nbits w : Nat) : Word32 := BitVec.ofNat 32 (w % 2 ^ nbits)

/-- What the decoder reads from such a word. -/
def decodeTableWord (nbits w : Nat) : Option Instr := (decode (tableWord nbits w)).toOption

end Sys2Proof
end

