-- ==== Sys2Proof/Machine/State.lean ====
section
/-! DEFINITION. Machine/State.lean: the state of one engine instance (spec 10_state.md R13), of its handshake (R23, R24)
and of the host agent that drives its ports (70_reset_and_hazards.md R110, R115), as plain data; and its reset value. -/

namespace Sys2Proof.Machine

/-- `STATE`, "exactly two logical states" (R19). -/
inductive Phase where
  /-- "before key scheduling completes" -/
  | uninitialized
  /-- "after scheduling and drop, accepting any number of Transform calls indefinitely" -/
  | ready
deriving DecidableEq, Repr

/-- The status codes a response can carry (R26); codes 4 to 7 are reserved and never produced (U8). -/
inductive Status where
  /-- Code 0: the command completed. -/
  | ok
  /-- Code 1: INIT with key length 0 or above 256 (R87). -/
  | invalidKeyLength
  /-- Code 2: DROP or XFORM while `STATE` is `Uninitialized` (R89). -/
  | notReady
  /-- Code 3: a word that names no command (R88). -/
  | illegalCommand
deriving DecidableEq, Repr

/-- "the tuple (S-box, i, j) fully determines future keystream output" (R12, R30). -/
structure Cipher where
  /-- The S-box (R16). -/
  S : Table
  /-- The running index i (R17). -/
  I : Byte
  /-- The running index j (R18). -/
  J : Byte
deriving DecidableEq, Repr

/-- What the host drives on the input ports at one rising edge of `clk` (R23). -/
structure Pins where
  rst : Bool
  cmdValid : Bool
  cmdData : Word32
  rspReady : Bool
deriving DecidableEq, Repr

/-- A host that offers nothing, takes nothing and does not reset. -/
def Pins.idle : Pins := ⟨false, false, 0#32, false⟩

/-- The machine's state: the engine (R13), its handshake (R24) and the host agent (R110). -/
structure State where
  /-- `S`, `I`, `J` (R16, R17, R18). -/
  cipher : Cipher
  /-- `STATE` (R19). -/
  state : Phase
  /-- The key staging buffer (R20). -/
  K : Table
  /-- Model-only: which entries a KEYB has written since reset (R22). -/
  KW : Vector Bool 256
  /-- The drop-count register (R21). -/
  dropN : Count
  /-- `BUSY` (R24); `cmd_ready` is its inverse (R23). -/
  busy : Bool
  /-- The command word being executed (R10): the last word accepted. -/
  cmd : Word32
  /-- Edges since that word was accepted, while its response is not yet offered (R24, log 13). -/
  waited : Nat
  /-- `rsp_valid` (R23, R24). -/
  rspValid : Bool
  /-- The response of the last command (R25); it stands on `rsp_data` while `rsp_valid` is 1 (R24). -/
  rsp : Word16
  /-- Host: the port values at the coming edges; none left stands for `Pins.idle` for ever (log 7). -/
  inputs : List Pins
  /-- Host: the word offered at the last edge and not accepted, which the host must hold (R24, R115). -/
  held : Option Word32
  /-- Host: the responses taken so far, oldest first (R110). -/
  responses : List Word16
  /-- The model's own: the index of the next free value of `Config` (log 4). -/
  freeIndex : Nat
deriving DecidableEq, Repr

/-- What stops the machine. -/
inductive Fault where
  /-- Raised by INIT, and by it alone, when it would read `K[a]` that no KEYB has written since reset (R22, R68, R79,
  U2). The hardware reads whatever the cell holds; the model stops. Safe (log 5). -/
  | unwrittenKeyByte (a : Byte)
deriving DecidableEq, Repr

/-- What the model gives no meaning to. -/
inductive Refusal where
  /-- Raised by no arm: every command of the opcode map has its meaning. Safe. -/
  | notModelled (mnemonic : String)
  /-- Raised by the edge, for no command: the host changed or withdrew a word it had offered and the engine had not
  accepted. "What the engine does when the host breaks that rule is not defined" (R24); U5's treatment is `refuse`.
  Safe (log 11). -/
  | commandNotHeld
deriving DecidableEq, Repr

/-- The machine right after reset (R28). `S`, `I`, `J`, `K` and the fields the spec gives no value are 0, DESIGN CHOICE
(unsafe: logs 1, 2, 13); no host input is pending. -/
def State.reset : State where
  cipher := ⟨Vector.replicate 256 0#8, 0#8, 0#8⟩
  state := .uninitialized
  K := Vector.replicate 256 0#8
  KW := Vector.replicate 256 false
  dropN := Config.dropnReset
  busy := false
  cmd := 0#32
  waited := 0
  rspValid := false
  rsp := 0#16
  inputs := []
  held := none
  responses := []
  freeIndex := 0

end Sys2Proof.Machine
end

