-- ==== Sys2Proof/Machine/Flags.lean ====
section
/-! DEFINITION. Machine/Flags.lean: the engine's one flag, `STATE`, and the status code as bits, and the response word they
form (spec 10_state.md R19, R25, R26; 42_control.md R82). -/

namespace Sys2Proof.Machine

/-- `Uninitialized` = 0, `Ready` = 1 (R19): the `RDY` bit. -/
def Phase.bit : Phase → BitVec 1
  | .uninitialized => 0#1
  | .ready => 1#1

/-- `CODE[2:0]` (R26). -/
def Status.code : Status → BitVec 3
  | .ok => 0#3
  | .invalidKeyLength => 1#3
  | .notReady => 2#3
  | .illegalCommand => 3#3

/-- `rsp_data = {0b0000, RDY, CODE[2:0], DOUT[7:0]}` (R25, R82). -/
def responseWord (rdy : Phase) (code : Status) (dout : Byte) : Word16 :=
  0#4 ++ rdy.bit ++ code.code ++ dout

/-- Bits 15:12 of a response (R25). -/
def rspReserved (r : Word16) : BitVec 4 := r.extractLsb' 12 4
/-- `RDY`, bit 11 (R25). -/
def rspRdy (r : Word16) : BitVec 1 := r.extractLsb' 11 1
/-- `CODE`, bits 10:8 (R25). -/
def rspCode (r : Word16) : BitVec 3 := r.extractLsb' 8 3
/-- `DOUT`, bits 7:0 (R25). -/
def rspDout (r : Word16) : Byte := r.extractLsb' 0 8

/-- The `cmd_ready` port: the inverse of `BUSY` (R23). -/
def State.cmdReady (s : State) : Bool := !s.busy

/-- What the `rsp_data` port shows: the response while `rsp_valid` is 1; the spec says nothing of it at other times
(R24, log 13). -/
def State.rspData (s : State) : Option Word16 := if s.rspValid then some s.rsp else none

end Sys2Proof.Machine
end

