-- ==== Sys2Proof/Machine/Ops.lean ====
section
/-! DEFINITION. Machine/Ops.lean: the primitives of spec 00_scope.md R10 (table read, write and swap, `respond`, `raise
Status`), the key schedule of 40_construct.md R68, the PRGA step of 41_keystream.md R73 and the reset edge of
70_reset_and_hazards.md R101. -/

namespace Sys2Proof.Machine

/-- Read entry `a` of a table (R10). Every index is a byte, so none is out of range (R32, R33). -/
def tableRead (t : Table) (a : Byte) : Byte := t[a.toNat]'a.isLt

/-- Write entry `a` of a table (R10). -/
def tableWrite (t : Table) (a v : Byte) : Table := t.set a.toNat v a.isLt

/-- `swap(S[a], S[b])`, as one action; when `a == b` the table is unchanged (R10). -/
def tableSwap (t : Table) (a b : Byte) : Table := tableWrite (tableWrite t a (tableRead t b)) b (tableRead t a)

/-- The identity permutation [0, 1, ..., 255] (R68). -/
def identityTable : Table := ⟨((List.range 256).map (BitVec.ofNat 8)).toArray, by simp⟩

/-- Step `n` of the key schedule on the table and the accumulator `jk`; the key byte is `K[n mod L]` (R68). -/
def ksaStep (K : Table) (L n : Nat) (x : Table × Byte) : Table × Byte :=
  let jk := x.2 + tableRead x.1 (BitVec.ofNat 8 n) + tableRead K (BitVec.ofNat 8 (n % L))
  (tableSwap x.1 (BitVec.ofNat 8 n) jk, jk)

/-- The table and the accumulator after the first `n` steps of the key schedule, from the identity and `jk = 0` (R68,
D26). -/
def ksaAfter (K : Table) (L : Nat) : Nat → Table × Byte
  | 0 => (identityTable, 0#8)
  | n + 1 => ksaStep K L n (ksaAfter K L n)

/-- The S-box the whole key schedule leaves; the final `jk` is discarded (R68, C3). -/
def keySchedule (K : Table) (L : Nat) : Table := (ksaAfter K L 256).1

/-- The PRGA step (R73): advance `I`, then `J` by `S` at the new `I`, then swap in place. -/
def prgaStep (c : Cipher) : Cipher :=
  let i := c.I + 1#8
  let j := c.J + tableRead c.S i
  ⟨tableSwap c.S i j, i, j⟩

/-- `repeat n: PrgaStep()` (R10). -/
def prgaSteps : Nat → Cipher → Cipher
  | 0, c => c
  | n + 1, c => prgaSteps n (prgaStep c)

/-- The keystream byte `S[t]`, `t = (S[I] + S[J]) mod 256`, read after a PRGA step (R12, R75). -/
def keystreamByte (c : Cipher) : Byte := tableRead c.S (tableRead c.S c.I + tableRead c.S c.J)

/-- What a successful INIT leaves in `S`, `I` and `J` (R68): the key schedule, both indices 0, then the drop. -/
def constructCipher (K : Table) (L dropCount : Nat) : Cipher := prgaSteps dropCount ⟨keySchedule K L, 0#8, 0#8⟩

/-- `S`, `I`, `J` written. -/
def State.withCipher (s : State) (c : Cipher) : State := { s with cipher := c }

/-- `STATE` written. -/
def State.withPhase (s : State) (p : Phase) : State := { s with state := p }

/-- `K[a] <- v; KW[a] <- true` (R66). -/
def State.withKeyByte (s : State) (a v : Byte) : State :=
  { s with K := tableWrite s.K a v, KW := s.KW.set a.toNat true a.isLt }

/-- `DROPN` written. -/
def State.withDropN (s : State) (n : Count) : State := { s with dropN := n }

/-- `respond(code, d)` (R10, R82): the response word, `RDY` taken from `STATE` after the command. -/
def State.respond (s : State) (code : Status) (d : Byte) : State := { s with rsp := responseWord s.state code d }

/-- `raise Status(code)` (R10, R82, R91): the engine's one way to fail. There is no trap: nothing is saved, no mode
changes, control goes nowhere (R92); the response says the code and `DOUT` is 0x00. -/
def State.raiseStatus (s : State) (code : Status) : State := s.respond code 0x00#8

/-- A table whose entries are the given free values. -/
@[irreducible] def unspecifiedTable (value : Byte → Byte) : Table := Vector.ofFn fun a => value (BitVec.ofFin a)

/-- A rising edge with `rst` = 1 (R101, R102): the named registers take their reset values, `S`, `I`, `J` and `K` take
free values (U1, U3), and a command in flight is abandoned. DESIGN CHOICE (unsafe, log 22): the free values depend on
`freeIndex` alone, so two engines, or two runs, at equal indices get equal cells; the spec leaves that open. `cmd`, `waited` and `rsp` are shown by nothing until the
next command writes them (log 13). -/
def State.resetEdge (s : State) : State :=
  { s with
    cipher := ⟨unspecifiedTable (Config.unspecifiedS s.freeIndex), Config.unspecifiedI s.freeIndex,
      Config.unspecifiedJ s.freeIndex⟩
    state := .uninitialized
    K := unspecifiedTable (Config.unspecifiedK s.freeIndex)
    KW := Vector.replicate 256 false
    dropN := Config.dropnReset
    busy := false
    rspValid := false
    held := none
    freeIndex := s.freeIndex + 1 }

end Sys2Proof.Machine
end

