-- ==== Sys2Proof/Machine/Operands.lean ====
section
/-! DEFINITION. Machine/Operands.lean: the operand forms of spec 30_encoding.md R57 (fields taken as they stand, none
sign-extended or scaled) and INIT's implicit operand, the staged key (40_construct.md R68). -/

namespace Sys2Proof.Machine

/-- `L`: "the length itself, not the length minus one" (R57). -/
def keyLength (klen : KeyLen) : Nat := klen.toNat

/-- The count of SETDROP and DROP, and of `DROPN` (R50, R57). -/
def countOf (cnt : Count) : Nat := cnt.toNat

/-- INIT's check: `L` is 0 or above 256 (R68, R87). -/
def keyLengthInvalid (L : Nat) : Bool := decide (L < Config.keyMin) || decide (Config.keyMax < L)

/-- `KW[a]` (R22). -/
def State.keyByteWritten (s : State) (a : Byte) : Bool := s.KW[a.toNat]'a.isLt

/-- The least `a` in 0..L-1 with `KW[a]` false (R68). The spec says "some a"; the least is a DESIGN CHOICE (safe, log 5). -/
def State.firstUnwrittenKeyByte (s : State) (L : Nat) : Option Byte :=
  ((List.range L).map (BitVec.ofNat 8)).find? fun a => !s.keyByteWritten a

end Sys2Proof.Machine
end

