-- ==== Sys2Proof/Machine/Construct.lean ====
section
/-! DEFINITION. Machine/Construct.lean: KEYB, SETDROP and INIT (spec 40_construct.md R66, R67, R68). -/

namespace Sys2Proof.Machine

/-- KEYB (R66): write one byte of the key staging buffer; legal in both states. -/
def execKeyb (idx kdata : Byte) (s : State) : Host.Outcome State Fault Refusal :=
  .next ((s.withKeyByte idx kdata).respond .ok 0x00#8)

/-- SETDROP (R67): set the drop count used by the next INIT; legal in both states. -/
def execSetdrop (cnt : Count) (s : State) : Host.Outcome State Fault Refusal :=
  .next ((s.withDropN cnt).respond .ok 0x00#8)

/-- INIT (R68): check the length, stop on a key byte never written (R22), else construct afresh and enter `Ready`. -/
def execInit (klen : KeyLen) (s : State) : Host.Outcome State Fault Refusal :=
  if keyLengthInvalid (keyLength klen) then .next (s.raiseStatus .invalidKeyLength)
  else
    match s.firstUnwrittenKeyByte (keyLength klen) with
    | some a => .fault (.unwrittenKeyByte a)
    | none =>
      .next (((s.withCipher (constructCipher s.K (keyLength klen) (countOf s.dropN))).withPhase .ready).respond
        .ok 0x00#8)

end Sys2Proof.Machine
end

