-- ==== Sys2Proof/Machine/Control.lean ====
section
/-! DEFINITION. Machine/Control.lean: NOP and the illegal word (spec 42_control.md R80, R81). -/

namespace Sys2Proof.Machine

/-- NOP (R80): report status; writes no state. -/
def execNop (s : State) : Host.Outcome State Fault Refusal := .next (s.respond .ok 0x00#8)

/-- An illegal word (R81): ILLEGAL_COMMAND, no state written, in either `STATE`. -/
def execIllegal (s : State) : Host.Outcome State Fault Refusal := .next (s.raiseStatus .illegalCommand)

end Sys2Proof.Machine
end

