-- ==== Sys2Proof/Machine/Keystream.lean ====
section
/-! DEFINITION. Machine/Keystream.lean: DROP and XFORM (spec 41_keystream.md R74, R75). -/

namespace Sys2Proof.Machine

/-- DROP (R74): advance the keystream by `CNT` bytes; no output byte is computed (C2). -/
def execDrop (cnt : Count) (s : State) : Host.Outcome State Fault Refusal :=
  if s.state = .ready then .next ((s.withCipher (prgaSteps (countOf cnt) s.cipher)).respond .ok 0x00#8)
  else .next (s.raiseStatus .notReady)

/-- XFORM (R75): one PRGA step, then `DIN XOR S[t]` with `t` and `S[t]` read after the swap. -/
def execXform (din : Byte) (s : State) : Host.Outcome State Fault Refusal :=
  if s.state = .ready then
    let c := prgaStep s.cipher
    .next ((s.withCipher c).respond .ok (din ^^^ keystreamByte c))
  else .next (s.raiseStatus .notReady)

end Sys2Proof.Machine
end

