-- ==== Sys2Proof/Machine/Dispatch.lean ====
section
/-! DEFINITION. Machine/Dispatch.lean: one arm per command (spec 42_control.md R79). -/

namespace Sys2Proof.Machine

def exec (i : Instr) (s : State) : Host.Outcome State Fault Refusal :=
  match i with
  | .nop => Sys2Proof.Machine.execNop s
  | .keyb idx kdata => Sys2Proof.Machine.execKeyb idx kdata s
  | .setdrop cnt => Sys2Proof.Machine.execSetdrop cnt s
  | .init klen => Sys2Proof.Machine.execInit klen s
  | .drop cnt => Sys2Proof.Machine.execDrop cnt s
  | .xform din => Sys2Proof.Machine.execXform din s

end Sys2Proof.Machine
end

