-- ==== Sys2Proof/Machine/Transaction.lean ====
section
/-! DEFINITION. Machine/Transaction.lean: the engine's step on a word (spec 42_control.md R79) and a run of words
(70_reset_and_hazards.md R110), the transaction-level model that the handshake carries out. -/

namespace Sys2Proof.Machine

/-- `exec(E, cmd[31:0])` of R79: decode, then the command's meaning, or the illegal word's. -/
def execWord (w : Word32) (s : State) : Host.Outcome State Fault Refusal :=
  match decode w with
  | .ok i => exec i s
  | .error _ => execIllegal s

/-- A run: `exec` folded over the host's words, stopping at the first model fault; the final state and the responses in
command order (R110). -/
def transact : List Word32 → State → Host.Outcome (State × List Word16) Fault Refusal
  | [], s => .next (s, [])
  | w :: ws, s =>
    match execWord w s with
    | .fault r => .fault r
    | .refused r => .refused r
    | .next t =>
      match transact ws t with
      | .fault r => .fault r
      | .refused r => .refused r
      | .next (u, rs) => .next (u, t.rsp :: rs)

/-- The words of a buffer's XFORMs, byte k the (k+1)-th (R34, R76). -/
def transformWords (data : List Byte) : List Word32 := data.map fun d => encode (.xform d)

/-- The KEYB commands of a key, `KEYB a, key[a]` for each `a` (R69, R106). -/
def keyCommands (key : List Byte) : List Instr := key.zipIdx.map fun x => .keyb (BitVec.ofNat 8 x.2) x.1

end Sys2Proof.Machine
end

