-- ==== Sys2Proof/Machine/Handshake.lean ====
section
/-! DEFINITION. Machine/Handshake.lean: what one rising edge of `clk` does (spec 10_state.md R23, R24;
70_reset_and_hazards.md R101, R102, R113). -/

namespace Sys2Proof.Machine

/-- `LAT_<command>` of a word (R7, R113); INIT's depends on `L` and `DROPN`, DROP's on its count. -/
def latencyOf (w : Word32) (dropN : Count) : Nat :=
  match decode w with
  | .ok .nop => Config.latNop
  | .ok (.keyb _ _) => Config.latKeyb
  | .ok (.setdrop _) => Config.latSetdrop
  | .ok (.init klen) => Config.latInit (keyLength klen) (countOf dropN)
  | .ok (.drop cnt) => Config.latDrop (countOf cnt)
  | .ok (.xform _) => Config.latXform
  | .error _ => Config.latIllegal

/-- The edges from a command's acceptance to the one that offers its response: "After `LAT_<command>` cycles or more"
(R24, log 10). DESIGN CHOICE (unsafe, log 22): the extra cycles depend on `freeIndex` alone, so two engines at equal
indices wait equally. -/
def State.responseDelay (s : State) : Nat := latencyOf s.cmd s.dropN + Config.stall s.freeIndex

/-- What the host drives at this edge. -/
def State.pins (s : State) : Pins := s.inputs.head?.getD Pins.idle

/-- The same state with this edge's port values taken off the host's list. -/
def State.consumeInput (s : State) : State := { s with inputs := s.inputs.tail }

/-- The word the host leaves offered and not accepted at this edge. -/
def Pins.offered (p : Pins) : Option Word32 := if p.cmdValid then some p.cmdData else none

/-- "The host must hold `cmd_data` unchanged while `cmd_valid` is 1 and `cmd_ready` is 0" (R24), "until accepted" (R115). -/
def State.breaksHold (s : State) (p : Pins) : Bool := s.held.isSome && decide (p.offered ≠ s.held)

/-- The state a word is executed in: `BUSY` is 1, the word is the one in flight, a free index is spent (R24). -/
def State.accept (s : State) (w : Word32) : State :=
  { s with busy := true, cmd := w, waited := 0, held := none, freeIndex := s.freeIndex + 1 }

/-- Not busy (`cmd_ready` = 1): a command is transferred if one is offered, and executed as one indivisible action
(R24, R40, log 9); else nothing happens (R105). -/
def State.commandEdge (s : State) (p : Pins) : Host.Outcome State Fault Refusal :=
  if p.cmdValid then execWord p.cmdData (s.accept p.cmdData) else .next s

/-- Busy: the delay runs, then the response is offered; an offered response is transferred when `rsp_ready` is 1, which
ends the command, and stays unchanged otherwise (R24). -/
def State.responseEdge (s : State) (p : Pins) : State :=
  if s.rspValid then
    if p.rspReady then
      { s with rspValid := false, busy := false, responses := s.responses ++ [s.rsp], held := p.offered }
    else { s with held := p.offered }
  else
    { s with waited := s.waited + 1, rspValid := decide (s.responseDelay ≤ s.waited + 1), held := p.offered }

/-- One rising edge with the ports at `p`: reset first (R101), then the host's duty (U5), then the channel that `BUSY`
selects. -/
def State.edge (s : State) (p : Pins) : Host.Outcome State Fault Refusal :=
  if p.rst then .next s.resetEdge
  else if s.breaksHold p then .refused .commandNotHeld
  else if s.busy then .next (s.responseEdge p)
  else s.commandEdge p

/-- The edge at which the host offers a word and nothing else happens. -/
def Pins.offer (w : Word32) : Pins := ⟨false, true, w, false⟩

/-- The engine idle (R24) and the host's next edge an offer of `w`. -/
def State.offering (s : State) (w : Word32) : State :=
  { s with busy := false, rspValid := false, held := none, inputs := Pins.offer w :: s.inputs }

end Sys2Proof.Machine
end

