-- ==== Sys2Proof/Machine/Step.lean ====
section
/-! DEFINITION. Machine/Step.lean: the step, one rising edge of `clk` (spec 10_state.md R23), and how a word is placed so
that the next step executes it. The engine fetches nothing (R15): the host offers each command. -/

namespace Sys2Proof.Machine

/-- One rising edge of `clk`, with the host's next port values. -/
def step (s : State) : Host.Outcome State Fault Refusal := s.consumeInput.edge s.pins

/-- `s` with the engine idle and the host offering the word at the next edge: `step` then accepts and executes exactly
it (log 7). -/
def State.withFetchWord (s : State) (nbits w : Nat) : State := s.offering (tableWord nbits w)

end Sys2Proof.Machine
end

