-- ==== Sys2Proof/Machine/Assembler.lean ====
section
/-! DEFINITION. Machine/Assembler.lean: the assembler syntax, the pseudo-commands and the disassembler of spec
30_encoding.md R58 and R59. A line of text is a list of characters. -/

namespace Sys2Proof.Machine

/-- The command of a line whose operands are in range; an assembler refuses any other and never truncates (R58). -/
def assemble (l : SourceLine) : Option Instr :=
  if l.wellFormed then
    match l.mnemonic, l.operands with
    | .nop, [] => some .nop
    | .keyb, [idx, byte] => some (.keyb (BitVec.ofNat 8 idx) (BitVec.ofNat 8 byte))
    | .setdrop, [n] => some (.setdrop (BitVec.ofNat 28 n))
    | .init, [len] => some (.init (BitVec.ofNat 9 len))
    | .drop, [n] => some (.drop (BitVec.ofNat 28 n))
    | .xform, [byte] => some (.xform (BitVec.ofNat 8 byte))
    | _, _ => none
  else none

/-- The word of a line (R58). -/
def assembleWord (l : SourceLine) : Option Word32 := (assemble l).map encode

/-- A mnemonic as text. -/
def mnemonicText : Mnemonic → List Char
  | .nop => ['N', 'O', 'P']
  | .keyb => ['K', 'E', 'Y', 'B']
  | .setdrop => ['S', 'E', 'T', 'D', 'R', 'O', 'P']
  | .init => ['I', 'N', 'I', 'T']
  | .drop => ['D', 'R', 'O', 'P']
  | .xform => ['X', 'F', 'O', 'R', 'M']

/-- The mnemonic a text names; capitals only (log 18). -/
def readMnemonic (cs : List Char) : Option Mnemonic :=
  [Mnemonic.nop, .keyb, .setdrop, .init, .drop, .xform].find? fun m => mnemonicText m == cs

/-- White space inside a line (log 18). -/
def isBlank (c : Char) : Bool := c == ' ' || c == '\t'

/-- A text without the white space around it. -/
def trimBlanks (cs : List Char) : List Char := ((cs.dropWhile isBlank).reverse.dropWhile isBlank).reverse

/-- "A `;` starts a comment" (R58). -/
def stripComment (cs : List Char) : List Char := cs.takeWhile fun c => c != ';'

/-- A text cut at its commas. -/
def splitCommas : List Char → List (List Char)
  | [] => [[]]
  | c :: cs =>
    if c = ',' then [] :: splitCommas cs
    else
      match splitCommas cs with
      | [] => [[c]]
      | piece :: pieces => (c :: piece) :: pieces

/-- The value of a decimal digit. -/
def decimalDigit (c : Char) : Option Nat :=
  if 48 ≤ c.toNat ∧ c.toNat ≤ 57 then some (c.toNat - 48) else none

/-- The value of a hexadecimal digit, in either case (log 18). -/
def hexDigit (c : Char) : Option Nat :=
  if 48 ≤ c.toNat ∧ c.toNat ≤ 57 then some (c.toNat - 48)
  else if 65 ≤ c.toNat ∧ c.toNat ≤ 70 then some (c.toNat - 55)
  else if 97 ≤ c.toNat ∧ c.toNat ≤ 102 then some (c.toNat - 87)
  else none

/-- The number a run of digits writes, `acc` being the value of the digits before. -/
def readDigits (base : Nat) (digit : Char → Option Nat) : List Char → Nat → Option Nat
  | [], acc => some acc
  | c :: cs, acc =>
    match digit c with
    | none => none
    | some d => readDigits base digit cs (acc * base + d)

/-- "A number is decimal, or hexadecimal with `0x`" (R58); at least one digit. -/
def readNumber : List Char → Option Nat
  | [] => none
  | '0' :: 'x' :: [] => none
  | '0' :: 'x' :: c :: cs => readDigits 16 hexDigit (c :: cs) 0
  | c :: cs => readDigits 10 decimalDigit (c :: cs) 0

/-- The operands of a line, separated by commas; none if nothing is written (R58). -/
def readOperands (cs : List Char) : Option (List Nat) :=
  if cs = [] then some [] else (splitCommas cs).mapM fun piece => readNumber (trimBlanks piece)

/-- One line of text as a mnemonic and its operands (R58). -/
def parseLine (text : List Char) : Option SourceLine :=
  let body := trimBlanks (stripComment text)
  let word := body.takeWhile fun c => !isBlank c
  match readMnemonic word, readOperands (trimBlanks (body.drop word.length)) with
  | some m, some ops => some ⟨m, ops⟩
  | _, _ => none

/-- The word of one line of text (R58). -/
def assembleText (text : List Char) : Option Word32 := (parseLine text).bind assembleWord

/-- A decimal digit as text. -/
def digitText (d : Nat) : Char := Char.ofNat (48 + d)

/-- A number in decimal; `fuel` digits are enough (10 for every operand field). -/
def decimalText : Nat → Nat → List Char
  | 0, _ => []
  | fuel + 1, n => if n < 10 then [digitText n] else decimalText fuel (n / 10) ++ [digitText (n % 10)]

/-- A hexadecimal digit as text. -/
def hexDigitText (d : Nat) : Char := if d < 10 then Char.ofNat (48 + d) else Char.ofNat (87 + d)

/-- Eight hexadecimal digits of a word, the most significant first. -/
def hexText (w : Word32) : List Char := [7, 6, 5, 4, 3, 2, 1, 0].map fun k => hexDigitText (w.extractLsb' (4 * k) 4).toNat

/-- The operands as text, separated by commas (R58). -/
def operandsText : List Nat → List Char
  | [] => []
  | [n] => decimalText 10 n
  | n :: ns => decimalText 10 n ++ [',', ' '] ++ operandsText ns

/-- A line as text (R58, R59). -/
def lineText (l : SourceLine) : List Char :=
  mnemonicText l.mnemonic ++ (if l.operands = [] then [] else ' ' :: operandsText l.operands)

/-- Disassembly: the mnemonic and the operand fields in decimal; an illegal word as `.word 0x<8 hex digits>` (R59). -/
def disassemble (w : Word32) : List Char :=
  match decode w with
  | .ok i => lineText i.sourceLine
  | .error _ => ['.', 'w', 'o', 'r', 'd', ' ', '0', 'x'] ++ hexText w

/-- LOADKEY b0, b1, ... (R58). -/
def loadKey (key : List Nat) : List SourceLine := key.zipIdx.map fun x => ⟨.keyb, [x.2, x.1]⟩

/-- The bytes of a string, one for each character, ASCII only (R58). -/
def asciiBytes (text : List Char) : Option (List Nat) :=
  text.mapM fun c => if c.toNat < 128 then some c.toNat else none

/-- CONSTRUCT key, n; with `n` omitted there is no SETDROP (R58). -/
def construct (key : List Nat) (dropCount : Option Nat) : List SourceLine :=
  loadKey key ++ (match dropCount with | some d => [⟨.setdrop, [d]⟩] | none => []) ++ [⟨.init, [key.length]⟩]

/-- TRANSFORM d0, d1, ...; an empty list expands to no command (R58). -/
def transform (data : List Nat) : List SourceLine := data.map fun d => ⟨.xform, [d]⟩

/-- KEYSTREAM (R58). -/
def keystream : List SourceLine := [⟨.xform, [0]⟩]

/-- The words of several lines; refused if one line is (R58). -/
def assembleAll (ls : List SourceLine) : Option (List Word32) := ls.mapM assembleWord

end Sys2Proof.Machine
end

