-- ==== Sys2Proof/Machine/Platform.lean ====
section
/-! DEFINITION. Machine/Platform.lean: a platform of `n` engine instances (spec 60_exceptions.md R98). `N_ENGINES` is open
(R7, Q1) and is the argument `n`. Each instance has its own ports and state; nothing is shared (R39, R98). Whether two
instances' unspecified values agree is open too: DESIGN CHOICE (unsafe), log 22, at the definitions below. -/

namespace Sys2Proof.Machine

/-- `n` instances side by side. -/
abbrev Platform (n : Nat) := Vector State n

/-- "Each starts in the reset state" (R98). DESIGN CHOICE (unsafe, log 22): every instance starts at `freeIndex` 0, so two
instances at equal `freeIndex` draw the same free values; the spec leaves open whether theirs agree (U1, U3, R24). -/
def Platform.reset (n : Nat) : Platform n := Vector.replicate n State.reset

/-- An edge at instance `k`, told apart from the others by its ports (R98). DESIGN CHOICE (unsafe, log 22): the instances
draw their free values (`stall`, and `S`, `I`, `J`, `K` after a reset edge) from the same constants of `Config` at their
own `freeIndex`, so at equal indices the values are equal; the spec leaves open whether they are (R7, R39, R101, U1). -/
def Platform.stepAt {n : Nat} (p : Platform n) (k : Fin n) : Host.Outcome (Platform n) Fault Refusal :=
  match step p[k] with
  | .next t => .next (p.set k.val t k.isLt)
  | .fault r => .fault r
  | .refused r => .refused r

end Sys2Proof.Machine
end

