-- ==== Sys2Proof/Safety.lean ====
section
/-! DEFINITION. Safety.lean: the invariants and the notions of a well-behaved run that the claims use. -/

namespace Sys2Proof.Machine

/-- "a permutation of 0..255": each value stands at exactly one entry (R16, R29). -/
def IsPermutation (t : Table) : Prop := ∀ v : Byte, ∃! a : Byte, tableRead t a = v

/-- "While `STATE` = `Ready`, `S` holds each value 0..255 exactly once" (R29). -/
def PermutationInv (s : State) : Prop := s.state = .ready → IsPermutation s.cipher.S

/-- A response the engine may produce: bits 15:12 are 0, `CODE` is 0 to 3, and `DOUT` is 0x00 for every error (R25,
R26, U8). -/
abbrev ResponseFormat (r : Word16) : Prop :=
  rspReserved r = 0#4 ∧ rspCode r ≤ 3#3 ∧ (rspCode r ≠ 0#3 → rspDout r = 0x00#8)

/-- Every response held or delivered has that format (U8). -/
abbrev ResponseInv (s : State) : Prop := ResponseFormat s.rsp ∧ ∀ r ∈ s.responses, ResponseFormat r

/-- A response is offered only while `BUSY` is 1, and while `BUSY` is 1 the response of the command in flight reports
`STATE` (R24, R25). That it does so before it is offered is the model's reading (log 9). -/
abbrev HandshakeInv (s : State) : Prop :=
  (s.rspValid = true → s.busy = true) ∧ (s.busy = true → rspRdy s.rsp = s.state.bit)

/-- The key bytes 0..L-1 are written (R106 step 1). -/
def KeyLoaded (s : State) (L : Nat) : Prop := ∀ a : Byte, a.toNat < L → s.keyByteWritten a = true

/-- INIT's key length is legal (R68). -/
abbrev LegalKeyLength (klen : KeyLen) : Prop := 1 ≤ klen.toNat ∧ klen.toNat ≤ 256

/-- The two states agree on the first `L` bytes of the staged key (R70). -/
def SameKey (s t : State) (L : Nat) : Prop := ∀ a : Byte, a.toNat < L → tableRead s.K a = tableRead t.K a

/-- The response of a command that ended in `t`: `{0b0000, RDY, CODE, DOUT}`, `RDY` from `STATE` after it (R25, R82). -/
abbrev Responds (t : State) (code : BitVec 3) (dout : Byte) : Prop := t.rsp = 0#4 ++ t.state.bit ++ code ++ dout

/-- The engine's state (R13) is the same in both. -/
abbrev SameEngine (s t : State) : Prop :=
  t.cipher = s.cipher ∧ t.state = s.state ∧ t.K = s.K ∧ t.KW = s.KW ∧ t.dropN = s.dropN

/-- The handshake and the host agent, which no command touches, are the same in both; only the response may differ. -/
abbrev SameHandshake (s t : State) : Prop :=
  t.busy = s.busy ∧ t.cmd = s.cmd ∧ t.waited = s.waited ∧ t.rspValid = s.rspValid ∧ t.inputs = s.inputs ∧
    t.held = s.held ∧ t.responses = s.responses ∧ t.freeIndex = s.freeIndex

/-- The word is answered with a status code and `DOUT` 0x00, and no state is written (R91). -/
def FailsWith (w : Word32) (s : State) (code : BitVec 3) : Prop :=
  ∃ t, execWord w s = .next t ∧ Responds t code 0x00#8 ∧ SameEngine s t ∧ SameHandshake s t

/-- `u` is `t` with entries `a` and `b` exchanged and no other touched (R10). -/
def Swapped (t u : Table) (a b : Byte) : Prop :=
  ∀ x, tableRead u x = if x = a then tableRead t b else if x = b then tableRead t a else tableRead t x

/-- One PRGA step as R73 writes it: `I`, then `J` by `S` at the new `I`, then the swap. -/
def PrgaStepRule (c d : Cipher) : Prop :=
  d.I.toNat = (c.I.toNat + 1) % 256 ∧ d.J.toNat = (c.J.toNat + (tableRead c.S d.I).toNat) % 256 ∧
    Swapped c.S d.S d.I d.J

/-- `d` is reached from `c` by `n` PRGA steps. -/
def PrgaRun (n : Nat) (c d : Cipher) : Prop :=
  ∃ trace : Nat → Cipher, trace 0 = c ∧ trace n = d ∧ ∀ m < n, PrgaStepRule (trace m) (trace (m + 1))

/-- `S` is what the key schedule of R68 leaves: the identity and `jk` = 0, then for n in 0..255 in increasing order
`jk <- (jk + S[n] + K[n mod L]) mod 256` and the swap of `S[n]` and `S[jk]`. -/
def KeyScheduled (K : Table) (L : Nat) (S : Table) : Prop :=
  ∃ (table : Nat → Table) (jk : Nat → Byte), (∀ a, tableRead (table 0) a = a) ∧ jk 0 = 0#8 ∧ table 256 = S ∧
    ∀ n < 256,
      (jk (n + 1)).toNat = ((jk n).toNat + (tableRead (table n) (BitVec.ofNat 8 n)).toNat +
        (tableRead K (BitVec.ofNat 8 (n % L))).toNat) % 256 ∧
      Swapped (table n) (table (n + 1)) (BitVec.ofNat 8 n) (jk (n + 1))

/-- `c` is the engine a construction with key `K[0..L-1]` and drop count `d` leaves (R68): the key schedule, both indices
0, `d` PRGA steps. -/
def ConstructedBy (K : Table) (L d : Nat) (c : Cipher) : Prop :=
  ∃ S, KeyScheduled K L S ∧ PrgaRun d ⟨S, 0#8, 0#8⟩ c

/-- The engine is idle: nothing in flight, no response offered, no word left waiting (R24). -/
abbrev Idle (s : State) : Prop := s.busy = false ∧ s.rspValid = false ∧ s.held = none

/-- A run of command words that meets no model fault and no refusal (R110). -/
def RunsSafely (ws : List Word32) (s : State) : Prop := ∃ t rs, transact ws s = .next (t, rs)

end Sys2Proof.Machine
end

