-- ==== Sys2Proof/Certificates/Slice0/Obligations.lean ====
section
/-! DEFINITION. Certificates/Slice0/Obligations.lean: the statements for the provers, from the numbered rules of spec/. -/

open Sys2Proof Sys2Proof.Machine

/-! ## Reset -/

/-- R28, R101: the values the spec gives the registers after reset. The values of `S`, `I`, `J`, `K` and of the fields
the spec gives none are the model's choice (logs 1, 2, 13) and are not stated. -/
def Obligations.ResetLeavesStatedValues : Prop :=
  State.reset.state = .uninitialized ∧ State.reset.dropN = 3072#28 ∧ (∀ a, State.reset.keyByteWritten a = false) ∧
    State.reset.busy = false ∧ State.reset.cmdReady = true ∧ State.reset.rspValid = false ∧ State.reset.rspData = none

/-- R28, U1, U3: while `Uninitialized`, no run observes what `S`, `I`, `J` and the unwritten entries of `K` hold: other
contents give the same responses, the same fault, and the same keystream position once `Ready`. -/
def Obligations.UnspecifiedContentsUnobservable : Prop :=
  ∀ (s : State) (c : Cipher) (k : Table) (ws : List Word32), s.state = .uninitialized →
    (∀ a, s.keyByteWritten a = true → tableRead k a = tableRead s.K a) →
    (∀ t rs, transact ws s = .next (t, rs) →
      ∃ u, transact ws { s with cipher := c, K := k } = .next (u, rs) ∧ u.state = t.state ∧
        (t.state = .ready → u.cipher = t.cipher)) ∧
    (∀ r, transact ws s = .fault r → transact ws { s with cipher := c, K := k } = .fault r)

/-- R101: what an edge with `rst` = 1 leaves, whatever the engine was doing; it accepts no command and offers no response,
and the engine is then idle with `cmd_ready` = 1. -/
def Obligations.ResetEdgeClearsEngine : Prop :=
  ∀ s : State, s.pins.rst = true →
    ∃ t, step s = .next t ∧ t.state = .uninitialized ∧ t.dropN = 3072#28 ∧ (∀ a, t.keyByteWritten a = false) ∧
      t.busy = false ∧ t.cmdReady = true ∧ t.rspValid = false ∧ t.rspData = none

/-- R102: a command that a reset cuts is abandoned: the edge of the reset itself delivers no response and ends the host's
duty to hold a word (logs 11, 20), and unless the host sends a new command, none is ever delivered. -/
def Obligations.ResetAbandonsCommand : Prop :=
  ∀ s t : State, s.pins.rst = true → step s = .next t →
    t.responses = s.responses ∧ t.held = none ∧ t.inputs = s.inputs.tail ∧
    ((∀ p ∈ s.inputs.tail, p.cmdValid = false) → ∀ n,
      ∃ u, Sys2Proof.core.run n t = .next u ∧ u.responses = s.responses ∧ u.busy = false ∧ u.rspValid = false)

/-- R105: outside a command the engine changes no state; a host that sends nothing leaves the reset state, and any idle
engine, unchanged for ever. -/
def Obligations.IdleEngineNeverActs : Prop :=
  (∀ n, Sys2Proof.core.run n State.reset = .next State.reset) ∧
    ∀ (n : Nat) (s : State), Idle s → (∀ p ∈ s.inputs, p.rst = false ∧ p.cmdValid = false) →
      ∃ u, Sys2Proof.core.run n s = .next u ∧ Idle u ∧ SameEngine s u ∧ u.responses = s.responses

/-! ## Encoding -/

/-- R62: encode then decode is the identity on commands, and decode then encode on legal words. -/
def Obligations.EncodeDecodeRoundTrip : Prop :=
  (∀ i : Instr, i.WellFormed → decode (encode i) = .ok i) ∧ ∀ (w : Word32) (i : Instr), decode w = .ok i → encode i = w

/-- R54, R81: which words are illegal, by their opcode and reserved bits; such a word raises ILLEGAL_COMMAND and changes
no state, and every other word is exactly one command. -/
def Obligations.IllegalWordsAreRejected : Prop :=
  ∀ w : Word32,
    ((∃ e, decode w = .error e) ↔
      6 ≤ w.toNat / 2 ^ 28 ∨
      (w.toNat / 2 ^ 28 = 0 ∧ w.toNat % 2 ^ 28 ≠ 0) ∨
      (w.toNat / 2 ^ 28 = 1 ∧ w.toNat / 2 ^ 16 % 2 ^ 12 ≠ 0) ∨
      (w.toNat / 2 ^ 28 = 3 ∧ w.toNat / 2 ^ 9 % 2 ^ 19 ≠ 0) ∨
      (w.toNat / 2 ^ 28 = 5 ∧ w.toNat / 2 ^ 8 % 2 ^ 20 ≠ 0)) ∧
    ((∃ e, decode w = .error e) → ∀ s, FailsWith w s 3#3) ∧
    ((¬ ∃ e, decode w = .error e) → ∃! i, decode w = .ok i)

/-- R53: a word is a command exactly when it matches that row's mask and match columns, and no word matches two rows. -/
def Obligations.OpcodeMapMatchesDecoder : Prop :=
  (∀ (m : Mnemonic) (w : Word32),
    m.matchesWord w = true ↔ ∃ i, decode w = .ok i ∧ i.sourceLine.mnemonic = m) ∧
  ∀ (m m' : Mnemonic) (w : Word32), m.matchesWord w = true → m'.matchesWord w = true → m = m'

/-- R57, R49 to R52: the operands of a decoded command are its fields of the word, as they stand. -/
def Obligations.OperandsAreFields : Prop :=
  ∀ (w : Word32) (i : Instr), decode w = .ok i →
    i.sourceLine.operands =
      match i with
      | .nop => []
      | .keyb _ _ => [w.toNat / 2 ^ 8 % 2 ^ 8, w.toNat % 2 ^ 8]
      | .setdrop _ => [w.toNat % 2 ^ 28]
      | .init _ => [w.toNat % 2 ^ 9]
      | .drop _ => [w.toNat % 2 ^ 28]
      | .xform _ => [w.toNat % 2 ^ 8]

/-- R61: the worked examples. -/
def Obligations.WorkedExamplesDecode : Prop :=
  decode 0x1000004B#32 = .ok (.keyb 0 75) ∧ decode 0x10000279#32 = .ok (.keyb 2 121) ∧
    decode 0x1000FFFF#32 = .ok (.keyb 255 255) ∧ decode 0x20000C00#32 = .ok (.setdrop 3072) ∧
    decode 0x20000000#32 = .ok (.setdrop 0) ∧ decode 0x30000003#32 = .ok (.init 3) ∧
    decode 0x30000100#32 = .ok (.init 256) ∧ decode 0x30000101#32 = .ok (.init 257) ∧
    decode 0x4FFFFFFF#32 = .ok (.drop 268435455) ∧ decode 0x50000050#32 = .ok (.xform 0x50) ∧
    decode 0x00000000#32 = .ok .nop ∧ decode 0x60000000#32 = .error (.reservedOpcode 6) ∧
    decode 0x50000150#32 = .error (.reservedBit 5)

/-- R34, Q4: a word carried over a byte-wide link of any byte order arrives as it was sent. -/
def Obligations.LinkCarriesWords : Prop :=
  ∀ (order : Equiv.Perm (Fin 4)) (w : Word32) (bytes : Vector Byte 4),
    wordOfLink order (linkOfWord order w) = w ∧ linkOfWord order (wordOfLink order bytes) = bytes

/-! ## The commands -/

/-- R80: NOP responds OK and writes no state, in every state; it is the word 0 alone. -/
def Obligations.NopReportsStatus : Prop :=
  (∀ s, ∃ t, exec .nop s = .next t ∧ Responds t 0#3 0x00#8 ∧ SameEngine s t ∧ SameHandshake s t) ∧
  (∀ w : Word32, decode w = .ok .nop ↔ w = 0#32) ∧
  ∀ (w : Word32) (s : State), w.toNat / 2 ^ 28 = 0 → w ≠ 0#32 → FailsWith w s 3#3

/-- R66: KEYB writes `K[IDX]` and `KW[IDX]` and nothing else, and responds OK, in every state; an INIT of a length up to
`IDX` does not read the entry; a word with a reserved bit set is illegal. -/
def Obligations.KeybWritesOneKeyByte : Prop :=
  (∀ (idx kdata : Byte) (s : State), ∃ t, exec (.keyb idx kdata) s = .next t ∧ Responds t 0#3 0x00#8 ∧
    (∀ a, tableRead t.K a = if a = idx then kdata else tableRead s.K a) ∧
    (∀ a, t.keyByteWritten a = true ↔ a = idx ∨ s.keyByteWritten a = true) ∧
    t.cipher = s.cipher ∧ t.state = s.state ∧ t.dropN = s.dropN ∧ SameHandshake s t ∧
    ∀ klen u, klen.toNat ≤ idx.toNat → exec (.init klen) s = .next u →
      ∃ v, exec (.init klen) t = .next v ∧ v.cipher = u.cipher ∧ v.rsp = u.rsp) ∧
  ∀ w : Word32, w.toNat / 2 ^ 28 = 1 →
    (w.toNat / 2 ^ 16 % 2 ^ 12 = 0 →
      decode w = .ok (.keyb (BitVec.ofNat 8 (w.toNat / 2 ^ 8)) (BitVec.ofNat 8 w.toNat))) ∧
    (w.toNat / 2 ^ 16 % 2 ^ 12 ≠ 0 → ∀ s, FailsWith w s 3#3)

/-- R67: SETDROP writes `DROPN` and nothing else, and responds OK, in every state; the next INIT runs that many PRGA
steps beyond the one with no drop; without a SETDROP the count is 3072; every word of its opcode is legal. -/
def Obligations.SetdropWritesDropCount : Prop :=
  (∀ (cnt : Count) (s : State), ∃ t, exec (.setdrop cnt) s = .next t ∧ Responds t 0#3 0x00#8 ∧ t.dropN = cnt ∧
    t.cipher = s.cipher ∧ t.state = s.state ∧ t.K = s.K ∧ t.KW = s.KW ∧ SameHandshake s t ∧
    ∀ klen, LegalKeyLength klen → KeyLoaded s klen.toNat →
      ∃ u v, exec (.init klen) { s with dropN := 0#28 } = .next u ∧ exec (.init klen) t = .next v ∧
        PrgaRun cnt.toNat u.cipher v.cipher) ∧
  State.reset.dropN = 3072#28 ∧
  ∀ w : Word32, w.toNat / 2 ^ 28 = 2 → decode w = .ok (.setdrop (BitVec.ofNat 28 w.toNat))

/-- R68: INIT, all of it: the length check, the model's stop on an unwritten key byte, the construction (key schedule,
indices 0, drop, `Ready`) and the word's form. -/
def Obligations.InitConstructsEngine : Prop :=
  (∀ (klen : KeyLen) (s : State), klen.toNat = 0 ∨ 256 < klen.toNat →
    ∃ t, exec (.init klen) s = .next t ∧ Responds t 1#3 0x00#8 ∧ SameEngine s t ∧ SameHandshake s t) ∧
  (∀ (klen : KeyLen) (s : State), LegalKeyLength klen → (∃ a : Byte, a.toNat < klen.toNat ∧ s.keyByteWritten a = false) →
    ∃ a : Byte, a.toNat < klen.toNat ∧ s.keyByteWritten a = false ∧
      exec (.init klen) s = .fault (.unwrittenKeyByte a)) ∧
  (∀ (klen : KeyLen) (s : State), LegalKeyLength klen → KeyLoaded s klen.toNat →
    ∃ t, exec (.init klen) s = .next t ∧ Responds t 0#3 0x00#8 ∧ t.state = .ready ∧
      ConstructedBy s.K klen.toNat s.dropN.toNat t.cipher ∧
      t.K = s.K ∧ t.KW = s.KW ∧ t.dropN = s.dropN ∧ SameHandshake s t) ∧
  ∀ w : Word32, w.toNat / 2 ^ 28 = 3 →
    (w.toNat / 2 ^ 9 % 2 ^ 19 = 0 → decode w = .ok (.init (BitVec.ofNat 9 w.toNat))) ∧
    (w.toNat / 2 ^ 9 % 2 ^ 19 ≠ 0 → ∀ s, FailsWith w s 3#3)

/-- R87: INIT raises INVALID_KEY_LENGTH exactly for the lengths 0 and above 256, and a failed INIT needs no clearing: the
next INIT does what it would have done without it. -/
def Obligations.InitRejectsBadLength : Prop :=
  (∀ (klen : KeyLen) (s : State),
    (∃ t, exec (.init klen) s = .next t ∧ rspCode t.rsp = 1#3) ↔ klen.toNat = 0 ∨ 256 < klen.toNat) ∧
  ∀ (bad good : KeyLen) (s t : State), bad.toNat = 0 ∨ 256 < bad.toNat → exec (.init bad) s = .next t →
    exec (.init good) t = exec (.init good) s

/-- R73: the PRGA step's three actions in order; equal indices leave `S` unchanged; `I` counts the steps modulo 256; a step
reads only the two entries it writes. -/
def Obligations.PrgaStepFollowsRule : Prop :=
  ∀ c : Cipher, PrgaStepRule c (prgaStep c) ∧ ((prgaStep c).J = (prgaStep c).I → (prgaStep c).S = c.S) ∧
    (∀ m, (prgaSteps m c).I.toNat = (c.I.toNat + m) % 256) ∧
    ∀ d : Cipher, d.I = c.I → d.J = c.J →
      (∀ a, a = (prgaStep c).I ∨ a = (prgaStep c).J → tableRead d.S a = tableRead c.S a) →
      (prgaStep d).I = (prgaStep c).I ∧ (prgaStep d).J = (prgaStep c).J ∧
        ∀ a, a = (prgaStep c).I ∨ a = (prgaStep c).J → tableRead (prgaStep d).S a = tableRead (prgaStep c).S a

/-- R74: DROP runs `CNT` PRGA steps while `Ready` and changes nothing else; it raises NOT_READY while `Uninitialized`;
every word of its opcode is legal. -/
def Obligations.DropAdvancesKeystream : Prop :=
  (∀ (cnt : Count) (s : State), s.state = .ready → ∃ t, exec (.drop cnt) s = .next t ∧ Responds t 0#3 0x00#8 ∧
    PrgaRun cnt.toNat s.cipher t.cipher ∧
    t.state = .ready ∧ t.K = s.K ∧ t.KW = s.KW ∧ t.dropN = s.dropN ∧ SameHandshake s t) ∧
  (∀ (cnt : Count) (s : State), s.state = .uninitialized →
    ∃ t, exec (.drop cnt) s = .next t ∧ Responds t 2#3 0x00#8 ∧ SameEngine s t ∧ SameHandshake s t) ∧
  ∀ w : Word32, w.toNat / 2 ^ 28 = 4 → decode w = .ok (.drop (BitVec.ofNat 28 w.toNat))

/-- R75: XFORM runs one PRGA step while `Ready` and responds with `DIN XOR S[t]`, `t` and `S[t]` read after the swap; it
raises NOT_READY while `Uninitialized`; a word with a reserved bit set is illegal. -/
def Obligations.XformTransformsByte : Prop :=
  (∀ (din : Byte) (s : State), s.state = .ready → ∃ t x, exec (.xform din) s = .next t ∧ PrgaStepRule s.cipher t.cipher ∧
    x.toNat = ((tableRead t.cipher.S t.cipher.I).toNat + (tableRead t.cipher.S t.cipher.J).toNat) % 256 ∧
    Responds t 0#3 (din ^^^ tableRead t.cipher.S x) ∧
    t.state = .ready ∧ t.K = s.K ∧ t.KW = s.KW ∧ t.dropN = s.dropN ∧ SameHandshake s t) ∧
  (∀ (din : Byte) (s : State), s.state = .uninitialized →
    ∃ t, exec (.xform din) s = .next t ∧ Responds t 2#3 0x00#8 ∧ SameEngine s t ∧ SameHandshake s t) ∧
  ∀ w : Word32, w.toNat / 2 ^ 28 = 5 →
    (w.toNat / 2 ^ 8 % 2 ^ 20 = 0 → decode w = .ok (.xform (BitVec.ofNat 8 w.toNat))) ∧
    (w.toNat / 2 ^ 8 % 2 ^ 20 ≠ 0 → ∀ s, FailsWith w s 3#3)

/-! ## Responses, failures and the state machine -/

/-- R25, R82: the four fields of every response; only XFORM, and only when it completes, has a `DOUT` other than 0. -/
def Obligations.ResponsesAreAssembled : Prop :=
  ∀ (w : Word32) (s t : State), execWord w s = .next t →
    rspReserved t.rsp = 0#4 ∧ rspRdy t.rsp = t.state.bit ∧ rspCode t.rsp ≤ 3#3 ∧
      (rspDout t.rsp ≠ 0x00#8 → rspCode t.rsp = 0#3 ∧ ∃ din, decode w = .ok (.xform din))

/-- R91: a command that raises a code writes no state, and the same word in the same `STATE` raises the same code. -/
def Obligations.FailuresWriteNothing : Prop :=
  (∀ (w : Word32) (s t : State), execWord w s = .next t → rspCode t.rsp ≠ 0#3 → SameEngine s t ∧ SameHandshake s t) ∧
  ∀ (w : Word32) (s s' t t' : State), s.state = s'.state → execWord w s = .next t → execWord w s' = .next t' →
    rspCode t.rsp = rspCode t'.rsp

/-- R83, R86, R87, R89, R90: the outcome and the next `STATE` of every word in each `STATE`: decode first, then the command's one
check. No command returns the engine to `Uninitialized`. -/
def Obligations.StateMachineFollowsTable : Prop :=
  ∀ (w : Word32) (s t : State), execWord w s = .next t →
    rspCode t.rsp =
      (match decode w with
      | .error _ => 3#3
      | .ok (.init klen) => if LegalKeyLength klen then 0#3 else 1#3
      | .ok (.drop _) => if s.state = .ready then 0#3 else 2#3
      | .ok (.xform _) => if s.state = .ready then 0#3 else 2#3
      | .ok _ => 0#3) ∧
    (t.state = .ready ↔ s.state = .ready ∨ ∃ klen, decode w = .ok (.init klen) ∧ LegalKeyLength klen)

/-- R79: every word has an outcome, a next state or the one model fault; none is refused. -/
def Obligations.EveryWordHasItsOutcome : Prop :=
  ∀ (w : Word32) (s : State),
    (∀ i, decode w = .ok i → execWord w s = exec i s) ∧ ((∃ e, decode w = .error e) → FailsWith w s 3#3) ∧
    ((∃ t, execWord w s = .next t) ∨
      ∃ klen a, decode w = .ok (.init klen) ∧ LegalKeyLength klen ∧ a.toNat < klen.toNat ∧
        s.keyByteWritten a = false ∧ execWord w s = .fault (.unwrittenKeyByte a))

/-- R27, write column: the frame of every command. Only KEYB writes `K` and `KW`, and one entry; only SETDROP writes
`DROPN`; only INIT, DROP and XFORM write `S`, `I`, `J`; only INIT writes `STATE`; none touches the handshake. -/
def Obligations.CommandsWriteOnlyTheirState : Prop :=
  ∀ (i : Instr) (s t : State), exec i s = .next t →
    SameHandshake s t ∧
    ((∀ idx kdata, i ≠ .keyb idx kdata) → t.K = s.K ∧ t.KW = s.KW) ∧
    (∀ idx kdata, i = .keyb idx kdata → ∀ a, a ≠ idx →
      tableRead t.K a = tableRead s.K a ∧ t.keyByteWritten a = s.keyByteWritten a) ∧
    ((∀ cnt, i ≠ .setdrop cnt) → t.dropN = s.dropN) ∧
    ((∀ klen, i ≠ .init klen) → t.state = s.state) ∧
    ((∀ klen, i ≠ .init klen) → (∀ cnt, i ≠ .drop cnt) → (∀ din, i ≠ .xform din) → t.cipher = s.cipher)

/-- R37: NOP, KEYB, SETDROP and INIT done twice leave what once leaves; XFORM, and DROP of a count that is no multiple of
256, never do. -/
def Obligations.IdempotentCommands : Prop :=
  (∀ (i : Instr) (s t : State), (∀ cnt, i ≠ .drop cnt) → (∀ din, i ≠ .xform din) → exec i s = .next t →
    exec i t = .next t) ∧
  (∀ (din : Byte) (s t : State), s.state = .ready → exec (.xform din) s = .next t → t.cipher ≠ s.cipher) ∧
  ∀ (cnt : Count) (s t : State), s.state = .ready → cnt.toNat % 256 ≠ 0 → exec (.drop cnt) s = .next t →
    t.cipher ≠ s.cipher

/-! ## Invariants -/

/-- R29: every step keeps the permutation invariant. -/
def Obligations.StepKeepsPermutation : Prop :=
  ∀ s t : State, PermutationInv s → step s = .next t → PermutationInv t

/-- R71: a successful INIT leaves a permutation, whatever `S` was before. -/
def Obligations.InitEstablishesPermutation : Prop :=
  ∀ (klen : KeyLen) (s : State), LegalKeyLength klen → KeyLoaded s klen.toNat →
    ∃ t, exec (.init klen) s = .next t ∧ t.state = .ready ∧ IsPermutation t.cipher.S

/-- U8, R25: every step keeps the form of every response, held or delivered. That the response is held from the acceptance
edge on, before it is offered, is the model's reading (log 9). -/
def Obligations.StepKeepsResponseFormat : Prop :=
  ∀ s t : State, ResponseInv s → step s = .next t → ResponseInv t

/-- R24, R25: every step keeps the handshake's invariant: a response is offered only while `BUSY`, and `RDY` of the
command in flight is `STATE`. That response and `STATE` agree before the response is offered too is the model's reading
(log 9): both are formed at the acceptance edge, where R40 lets a command spread over many cycles. -/
def Obligations.StepKeepsHandshake : Prop :=
  ∀ s t : State, HandshakeInv s → step s = .next t → HandshakeInv t

/-- The three invariants hold at reset. The response held at reset is the model's choice (log 13): the clause on it is
the model's, not the spec's. -/
def Obligations.InvariantsHoldAtReset : Prop :=
  PermutationInv State.reset ∧ ResponseInv State.reset ∧ HandshakeInv State.reset

/-! ## The handshake -/

/-- R24, R79: at an edge where a command is transferred, the step is the command's meaning, in the state with `BUSY` set,
the word in flight and the edge's port values used up. That the whole effect is at this edge is the model's reading
(log 9). -/
def Obligations.StepRunsOfferedWord : Prop :=
  ∀ (s : State) (p : Pins) (rest : List Pins), s.inputs = p :: rest → p.rst = false → p.cmdValid = true →
    s.busy = false → s.held = none ∨ s.held = some p.cmdData →
    let accepted := { s with
      inputs := rest, busy := true, cmd := p.cmdData, waited := 0, held := none, freeIndex := s.freeIndex + 1 }
    step s = execWord p.cmdData accepted ∧ (∀ i, decode p.cmdData = .ok i → step s = exec i accepted) ∧
      ∀ e, decode p.cmdData = .error e → step s = execIllegal accepted

/-- A placed word is the next one the step runs (the placing is the model's, log 7; the whole effect at that edge, log 9). -/
def Obligations.PlacedWordRunsNext : Prop :=
  ∀ (s : State) (nbits w : Nat) (i : Instr), decodeTableWord nbits w = some i →
    step (s.withFetchWord nbits w) =
      exec i { s with
        busy := true, cmd := tableWord nbits w, waited := 0, rspValid := false, held := none,
        freeIndex := s.freeIndex + 1 }

/-- R24: while `BUSY` is 1 no command is accepted and the engine's state stands still; the response is offered once the
latency has passed and not before; offered and not taken it stays; taken, it is delivered, and `cmd_ready` is 1. That the
state stands still at every edge while `BUSY` is the model's reading (log 9): the whole effect is at the acceptance edge,
where R40 lets a command spread over many cycles. So is how the latency is counted (log 10). -/
def Obligations.HandshakeDeliversResponse : Prop :=
  ∀ s : State, s.busy = true → s.pins.rst = false → s.held = none ∨ s.held = s.pins.offered →
    ∃ t, step s = .next t ∧ SameEngine s t ∧ t.cmd = s.cmd ∧ t.rsp = s.rsp ∧ t.held = s.pins.offered ∧
      (s.rspValid = true → s.pins.rspReady = false →
        t.busy = true ∧ t.rspValid = true ∧ t.rspData = s.rspData ∧ t.responses = s.responses) ∧
      (s.rspValid = true → s.pins.rspReady = true →
        t.busy = false ∧ t.cmdReady = true ∧ t.rspValid = false ∧ t.responses = s.responses ++ [s.rsp]) ∧
      (s.rspValid = false →
        t.busy = true ∧ t.responses = s.responses ∧ t.waited = s.waited + 1 ∧
          (t.rspValid = true ↔ latencyOf s.cmd s.dropN + Config.stall s.freeIndex ≤ t.waited))

/-- R113: every latency is at least one cycle. -/
def Obligations.LatenciesAtLeastOne : Prop := ∀ (w : Word32) (d : Count), 1 ≤ latencyOf w d

/-- U5, R24: the step refuses exactly when the host changes or withdraws a word it had offered and the engine had not
accepted, at an edge without reset. -/
def Obligations.OnlyBrokenHoldIsRefused : Prop :=
  ∀ (s : State) (r : Refusal), step s = .refused r ↔
    r = .commandNotHeld ∧ s.pins.rst = false ∧ ∃ w, s.held = some w ∧ s.pins.offered ≠ some w

/-- R40, R24, R114: the handshake carries out the transaction. From an idle engine, a host that offers a word and is then
ready for the response gets, in finitely many edges, exactly the state and the one response of `exec`; a model fault
stops the first edge (that it is this edge is the model's reading, log 9). -/
def Obligations.HandshakeRefinesTransaction : Prop :=
  ∀ (s : State) (w : Word32), Idle s →
    (∀ t, execWord w s = .next t →
      ∃ n, ∀ m, n ≤ m → ∃ u,
        Sys2Proof.core.run (m + 1)
          { s with inputs := ⟨false, true, w, true⟩ :: List.replicate m ⟨false, false, 0#32, true⟩ } = .next u ∧
        Idle u ∧ u.inputs = [] ∧ SameEngine t u ∧ u.responses = s.responses ++ [t.rsp]) ∧
    ∀ r, execWord w s = .fault r → ∀ rest, step { s with inputs := ⟨false, true, w, true⟩ :: rest } = .fault r

/-! ## Whole-engine laws -/

/-- R70: construction is determined by `L`, `K[0..L-1]` and `DROPN`, whatever state either engine held before, and so is
the keystream that follows. -/
def Obligations.ConstructionIsDeterministic : Prop :=
  ∀ (klen : KeyLen) (s s' t t' : State), LegalKeyLength klen → SameKey s s' klen.toNat → s.dropN = s'.dropN →
    exec (.init klen) s = .next t → exec (.init klen) s' = .next t' →
    t.cipher = t'.cipher ∧
      ∀ data, ∃ u u' rs, transact (transformWords data) t = .next (u, rs) ∧
        transact (transformWords data) t' = .next (u', rs)

/-- R69: the commands of CONSTRUCT, with KEYB and SETDROP in any order and INIT last, build the source's engine, from any
state; an INIT of 257..511 fails. -/
def Obligations.ConstructCommandsBuildEngine : Prop :=
  (∀ (key : List Byte) (d : Count) (cmds : List Instr) (s : State), 1 ≤ key.length → key.length ≤ 256 →
    cmds.Perm (.setdrop d :: keyCommands key) →
    ∃ t rs, transact ((cmds ++ [Instr.init (BitVec.ofNat 9 key.length)]).map encode) s = .next (t, rs) ∧
      t.state = .ready ∧ (∀ n (h : n < key.length), tableRead t.K (BitVec.ofNat 8 n) = key[n]) ∧
      ConstructedBy t.K key.length d.toNat t.cipher) ∧
  ∀ (n : Nat) (s : State), 257 ≤ n → n ≤ 511 → FailsWith (encode (.init (BitVec.ofNat 9 n))) s 1#3

/-- R76: the XFORMs of a buffer give each byte XORed with the next keystream byte, use up exactly that many keystream
bytes, and change nothing for an empty buffer; cutting the buffer anywhere changes nothing. -/
def Obligations.StreamingEquivalence : Prop :=
  (∀ (data : List Byte) (s : State), s.state = .ready →
    ∃ t rs, transact (transformWords data) s = .next (t, rs) ∧ PrgaRun data.length s.cipher t.cipher ∧
      (data = [] → t = s) ∧ rs.length = data.length ∧
      ∀ n (h : n < data.length) (h' : n < rs.length), ∃ c, PrgaRun (n + 1) s.cipher c ∧
        rspDout rs[n] = data[n] ^^^ tableRead c.S (tableRead c.S c.I + tableRead c.S c.J)) ∧
  ∀ (a b : List Byte) (s t u : State) (ra rb : List Word16),
    transact (transformWords a) s = .next (t, ra) → transact (transformWords b) t = .next (u, rb) →
    transact (transformWords (a ++ b)) s = .next (u, ra ++ rb)

/-- R77: two engines constructed with the same key and drop count: the second turns the first's outputs back into its
inputs. -/
def Obligations.RoundTripRestoresPlaintext : Prop :=
  ∀ (klen : KeyLen) (s s' : State) (data : List Byte), LegalKeyLength klen → KeyLoaded s klen.toNat →
    KeyLoaded s' klen.toNat → SameKey s s' klen.toNat → s.dropN = s'.dropN →
    ∃ t t' u u' rs rs', exec (.init klen) s = .next t ∧ exec (.init klen) s' = .next t' ∧
      transact (transformWords data) t = .next (u, rs) ∧
      transact (transformWords (rs.map rspDout)) t' = .next (u', rs') ∧ rs'.map rspDout = data

/-- R78: the three laws of drop composition. -/
def Obligations.DropsCompose : Prop :=
  (∀ (a b : Count) (s : State), s.state = .ready → a.toNat + b.toNat < 2 ^ 28 →
    ∃ t u v, exec (.drop a) s = .next t ∧ exec (.drop b) t = .next u ∧ exec (.drop (a + b)) s = .next v ∧
      u.cipher = v.cipher) ∧
  (∀ (n : Count) (data : List Byte) (s : State), s.state = .ready → data.length = n.toNat →
    ∃ t u rs, exec (.drop n) s = .next t ∧ transact (transformWords data) s = .next (u, rs) ∧ t.cipher = u.cipher) ∧
  ∀ (klen : KeyLen) (d e : Count) (s : State), LegalKeyLength klen → KeyLoaded s klen.toNat →
    ∃ t u, exec (.init klen) { s with dropN := d } = .next t ∧ exec (.drop e) t = .next u ∧
      ConstructedBy s.K klen.toNat (d.toNat + e.toNat) u.cipher ∧
      (d.toNat + e.toNat < 2 ^ 28 →
        ∃ v, exec (.init klen) { s with dropN := d + e } = .next v ∧ u.cipher = v.cipher)

/-- R43, R111, R30: between INITs, what stands in `K`, `KW` and `DROPN`, and what KEYB and SETDROP do to them, shows in no
response: two `Ready` engines with the same `S`, `I`, `J` answer the same words alike. -/
def Obligations.StagedValuesWaitForInit : Prop :=
  ∀ (ws : List Word32) (s s' : State), s.state = .ready → s'.state = .ready → s.cipher = s'.cipher →
    (∀ w ∈ ws, ∀ klen, decode w ≠ .ok (.init klen)) →
    ∃ t t' rs, transact ws s = .next (t, rs) ∧ transact ws s' = .next (t', rs) ∧ t.cipher = t'.cipher

/-- R22, R79: once every entry of `K` is written no run of commands meets the model fault, and a run that does meet it has
executed an INIT with some entry unwritten; written entries stay written. -/
def Obligations.StagedKeyRunsSafely : Prop :=
  (∀ (ws : List Word32) (s : State), KeyLoaded s 256 → RunsSafely ws s) ∧
  (∀ (ws : List Word32) (s : State), ¬ RunsSafely ws s →
    ∃ w ∈ ws, ∃ klen a, decode w = .ok (.init klen) ∧ LegalKeyLength klen ∧ a.toNat < klen.toNat ∧ s.keyByteWritten a = false) ∧
  ∀ (ws : List Word32) (s t : State) (rs : List Word16), transact ws s = .next (t, rs) →
    ∀ a, s.keyByteWritten a = true → t.keyByteWritten a = true

/-- R98, R39: an edge at one instance of a platform is that instance's own step and leaves every other unchanged, and edges
at two instances may come in either order. -/
def Obligations.InstancesAreIndependent : Prop :=
  ∀ (n : Nat) (p q : Platform n) (k : Fin n), p.stepAt k = .next q →
    step p[k] = .next q[k] ∧ (∀ j : Fin n, j ≠ k → q[j] = p[j]) ∧
    ∀ (j : Fin n) (r : Platform n), j ≠ k → q.stepAt j = .next r →
      ∃ q', p.stepAt j = .next q' ∧ q'.stepAt k = .next r

/-! ## Assembler -/

/-- R58: a line assembles exactly when its operands are in range, to the word of the syntax table. -/
def Obligations.AssemblerWritesTable : Prop :=
  (∀ (l : SourceLine) (w : Word32), assembleWord l = some w ↔ l.wellFormed = true ∧
    w.toNat =
      match l.mnemonic, l.operands with
      | .keyb, [idx, byte] => 0x10000000 + idx * 256 + byte
      | .setdrop, [n] => 0x20000000 + n
      | .init, [len] => 0x30000000 + len
      | .drop, [n] => 0x40000000 + n
      | .xform, [byte] => 0x50000000 + byte
      | _, _ => 0) ∧
  ∀ i : Instr, assemble i.sourceLine = some i

/-- R58: CONSTRUCT and TRANSFORM expand to the words of their commands. -/
def Obligations.PseudoCommandsExpand : Prop :=
  (∀ (key : List Byte) (d : Count), key.length ≤ 256 →
    assembleAll (construct (key.map BitVec.toNat) (some d.toNat)) =
      some ((keyCommands key ++ [Instr.setdrop d, Instr.init (BitVec.ofNat 9 key.length)]).map encode)) ∧
  (∀ data : List Byte, assembleAll (transform (data.map BitVec.toNat)) = some (transformWords data)) ∧
  assembleAll keystream = some [0x50000000#32]

/-- R59: printing a legal word and assembling the text gives back the word; an illegal word prints as no command. -/
def Obligations.DisassemblyReassembles : Prop :=
  ∀ w : Word32,
    (∀ i, decode w = .ok i → disassemble w = lineText i.sourceLine ∧ assembleText (disassemble w) = some w) ∧
    (∀ e, decode w = .error e →
      disassemble w = ['.', 'w', 'o', 'r', 'd', ' ', '0', 'x'] ++ hexText w ∧ (hexText w).length = 8 ∧
        readNumber (['0', 'x'] ++ hexText w) = some w.toNat ∧ assembleText (disassemble w) = none)
end

