-- ==== Sys2Proof/Laws/State.lean ====
section
/-! SUPPORT. Laws/State.lean: what each update of State does to each field, true by rfl, so that no proof unfolds a record
update. -/

namespace Sys2Proof.Machine

@[simp] theorem State.withCipher_cipher (s : State) (c : Cipher) : (s.withCipher c).cipher = c := rfl
@[simp] theorem State.withCipher_state (s : State) (c : Cipher) : (s.withCipher c).state = s.state := rfl
@[simp] theorem State.withCipher_K (s : State) (c : Cipher) : (s.withCipher c).K = s.K := rfl
@[simp] theorem State.withCipher_KW (s : State) (c : Cipher) : (s.withCipher c).KW = s.KW := rfl
@[simp] theorem State.withCipher_dropN (s : State) (c : Cipher) : (s.withCipher c).dropN = s.dropN := rfl
@[simp] theorem State.withCipher_busy (s : State) (c : Cipher) : (s.withCipher c).busy = s.busy := rfl
@[simp] theorem State.withCipher_cmd (s : State) (c : Cipher) : (s.withCipher c).cmd = s.cmd := rfl
@[simp] theorem State.withCipher_waited (s : State) (c : Cipher) : (s.withCipher c).waited = s.waited := rfl
@[simp] theorem State.withCipher_rspValid (s : State) (c : Cipher) : (s.withCipher c).rspValid = s.rspValid := rfl
@[simp] theorem State.withCipher_rsp (s : State) (c : Cipher) : (s.withCipher c).rsp = s.rsp := rfl
@[simp] theorem State.withCipher_inputs (s : State) (c : Cipher) : (s.withCipher c).inputs = s.inputs := rfl
@[simp] theorem State.withCipher_held (s : State) (c : Cipher) : (s.withCipher c).held = s.held := rfl
@[simp] theorem State.withCipher_responses (s : State) (c : Cipher) : (s.withCipher c).responses = s.responses := rfl
@[simp] theorem State.withCipher_freeIndex (s : State) (c : Cipher) : (s.withCipher c).freeIndex = s.freeIndex := rfl

@[simp] theorem State.withPhase_cipher (s : State) (p : Phase) : (s.withPhase p).cipher = s.cipher := rfl
@[simp] theorem State.withPhase_state (s : State) (p : Phase) : (s.withPhase p).state = p := rfl
@[simp] theorem State.withPhase_K (s : State) (p : Phase) : (s.withPhase p).K = s.K := rfl
@[simp] theorem State.withPhase_KW (s : State) (p : Phase) : (s.withPhase p).KW = s.KW := rfl
@[simp] theorem State.withPhase_dropN (s : State) (p : Phase) : (s.withPhase p).dropN = s.dropN := rfl
@[simp] theorem State.withPhase_busy (s : State) (p : Phase) : (s.withPhase p).busy = s.busy := rfl
@[simp] theorem State.withPhase_cmd (s : State) (p : Phase) : (s.withPhase p).cmd = s.cmd := rfl
@[simp] theorem State.withPhase_waited (s : State) (p : Phase) : (s.withPhase p).waited = s.waited := rfl
@[simp] theorem State.withPhase_rspValid (s : State) (p : Phase) : (s.withPhase p).rspValid = s.rspValid := rfl
@[simp] theorem State.withPhase_rsp (s : State) (p : Phase) : (s.withPhase p).rsp = s.rsp := rfl
@[simp] theorem State.withPhase_inputs (s : State) (p : Phase) : (s.withPhase p).inputs = s.inputs := rfl
@[simp] theorem State.withPhase_held (s : State) (p : Phase) : (s.withPhase p).held = s.held := rfl
@[simp] theorem State.withPhase_responses (s : State) (p : Phase) : (s.withPhase p).responses = s.responses := rfl
@[simp] theorem State.withPhase_freeIndex (s : State) (p : Phase) : (s.withPhase p).freeIndex = s.freeIndex := rfl

@[simp] theorem State.withKeyByte_cipher (s : State) (a v : Byte) : (s.withKeyByte a v).cipher = s.cipher := rfl
@[simp] theorem State.withKeyByte_state (s : State) (a v : Byte) : (s.withKeyByte a v).state = s.state := rfl
@[simp] theorem State.withKeyByte_K (s : State) (a v : Byte) : (s.withKeyByte a v).K = tableWrite s.K a v := rfl
@[simp] theorem State.withKeyByte_KW (s : State) (a v : Byte) : (s.withKeyByte a v).KW = s.KW.set a.toNat true a.isLt := rfl
@[simp] theorem State.withKeyByte_dropN (s : State) (a v : Byte) : (s.withKeyByte a v).dropN = s.dropN := rfl
@[simp] theorem State.withKeyByte_busy (s : State) (a v : Byte) : (s.withKeyByte a v).busy = s.busy := rfl
@[simp] theorem State.withKeyByte_cmd (s : State) (a v : Byte) : (s.withKeyByte a v).cmd = s.cmd := rfl
@[simp] theorem State.withKeyByte_waited (s : State) (a v : Byte) : (s.withKeyByte a v).waited = s.waited := rfl
@[simp] theorem State.withKeyByte_rspValid (s : State) (a v : Byte) : (s.withKeyByte a v).rspValid = s.rspValid := rfl
@[simp] theorem State.withKeyByte_rsp (s : State) (a v : Byte) : (s.withKeyByte a v).rsp = s.rsp := rfl
@[simp] theorem State.withKeyByte_inputs (s : State) (a v : Byte) : (s.withKeyByte a v).inputs = s.inputs := rfl
@[simp] theorem State.withKeyByte_held (s : State) (a v : Byte) : (s.withKeyByte a v).held = s.held := rfl
@[simp] theorem State.withKeyByte_responses (s : State) (a v : Byte) : (s.withKeyByte a v).responses = s.responses := rfl
@[simp] theorem State.withKeyByte_freeIndex (s : State) (a v : Byte) : (s.withKeyByte a v).freeIndex = s.freeIndex := rfl

@[simp] theorem State.withDropN_cipher (s : State) (n : Count) : (s.withDropN n).cipher = s.cipher := rfl
@[simp] theorem State.withDropN_state (s : State) (n : Count) : (s.withDropN n).state = s.state := rfl
@[simp] theorem State.withDropN_K (s : State) (n : Count) : (s.withDropN n).K = s.K := rfl
@[simp] theorem State.withDropN_KW (s : State) (n : Count) : (s.withDropN n).KW = s.KW := rfl
@[simp] theorem State.withDropN_dropN (s : State) (n : Count) : (s.withDropN n).dropN = n := rfl
@[simp] theorem State.withDropN_busy (s : State) (n : Count) : (s.withDropN n).busy = s.busy := rfl
@[simp] theorem State.withDropN_cmd (s : State) (n : Count) : (s.withDropN n).cmd = s.cmd := rfl
@[simp] theorem State.withDropN_waited (s : State) (n : Count) : (s.withDropN n).waited = s.waited := rfl
@[simp] theorem State.withDropN_rspValid (s : State) (n : Count) : (s.withDropN n).rspValid = s.rspValid := rfl
@[simp] theorem State.withDropN_rsp (s : State) (n : Count) : (s.withDropN n).rsp = s.rsp := rfl
@[simp] theorem State.withDropN_inputs (s : State) (n : Count) : (s.withDropN n).inputs = s.inputs := rfl
@[simp] theorem State.withDropN_held (s : State) (n : Count) : (s.withDropN n).held = s.held := rfl
@[simp] theorem State.withDropN_responses (s : State) (n : Count) : (s.withDropN n).responses = s.responses := rfl
@[simp] theorem State.withDropN_freeIndex (s : State) (n : Count) : (s.withDropN n).freeIndex = s.freeIndex := rfl

@[simp] theorem State.respond_cipher (s : State) (c : Status) (d : Byte) : (s.respond c d).cipher = s.cipher := rfl
@[simp] theorem State.respond_state (s : State) (c : Status) (d : Byte) : (s.respond c d).state = s.state := rfl
@[simp] theorem State.respond_K (s : State) (c : Status) (d : Byte) : (s.respond c d).K = s.K := rfl
@[simp] theorem State.respond_KW (s : State) (c : Status) (d : Byte) : (s.respond c d).KW = s.KW := rfl
@[simp] theorem State.respond_dropN (s : State) (c : Status) (d : Byte) : (s.respond c d).dropN = s.dropN := rfl
@[simp] theorem State.respond_busy (s : State) (c : Status) (d : Byte) : (s.respond c d).busy = s.busy := rfl
@[simp] theorem State.respond_cmd (s : State) (c : Status) (d : Byte) : (s.respond c d).cmd = s.cmd := rfl
@[simp] theorem State.respond_waited (s : State) (c : Status) (d : Byte) : (s.respond c d).waited = s.waited := rfl
@[simp] theorem State.respond_rspValid (s : State) (c : Status) (d : Byte) : (s.respond c d).rspValid = s.rspValid := rfl
@[simp] theorem State.respond_rsp (s : State) (c : Status) (d : Byte) : (s.respond c d).rsp = responseWord s.state c d := rfl
@[simp] theorem State.respond_inputs (s : State) (c : Status) (d : Byte) : (s.respond c d).inputs = s.inputs := rfl
@[simp] theorem State.respond_held (s : State) (c : Status) (d : Byte) : (s.respond c d).held = s.held := rfl
@[simp] theorem State.respond_responses (s : State) (c : Status) (d : Byte) : (s.respond c d).responses = s.responses := rfl
@[simp] theorem State.respond_freeIndex (s : State) (c : Status) (d : Byte) : (s.respond c d).freeIndex = s.freeIndex := rfl

@[simp] theorem State.raiseStatus_cipher (s : State) (c : Status) : (s.raiseStatus c).cipher = s.cipher := rfl
@[simp] theorem State.raiseStatus_state (s : State) (c : Status) : (s.raiseStatus c).state = s.state := rfl
@[simp] theorem State.raiseStatus_K (s : State) (c : Status) : (s.raiseStatus c).K = s.K := rfl
@[simp] theorem State.raiseStatus_KW (s : State) (c : Status) : (s.raiseStatus c).KW = s.KW := rfl
@[simp] theorem State.raiseStatus_dropN (s : State) (c : Status) : (s.raiseStatus c).dropN = s.dropN := rfl
@[simp] theorem State.raiseStatus_busy (s : State) (c : Status) : (s.raiseStatus c).busy = s.busy := rfl
@[simp] theorem State.raiseStatus_cmd (s : State) (c : Status) : (s.raiseStatus c).cmd = s.cmd := rfl
@[simp] theorem State.raiseStatus_waited (s : State) (c : Status) : (s.raiseStatus c).waited = s.waited := rfl
@[simp] theorem State.raiseStatus_rspValid (s : State) (c : Status) : (s.raiseStatus c).rspValid = s.rspValid := rfl
@[simp] theorem State.raiseStatus_rsp (s : State) (c : Status) : (s.raiseStatus c).rsp = responseWord s.state c 0x00#8 := rfl
@[simp] theorem State.raiseStatus_inputs (s : State) (c : Status) : (s.raiseStatus c).inputs = s.inputs := rfl
@[simp] theorem State.raiseStatus_held (s : State) (c : Status) : (s.raiseStatus c).held = s.held := rfl
@[simp] theorem State.raiseStatus_responses (s : State) (c : Status) : (s.raiseStatus c).responses = s.responses := rfl
@[simp] theorem State.raiseStatus_freeIndex (s : State) (c : Status) : (s.raiseStatus c).freeIndex = s.freeIndex := rfl

@[simp] theorem State.accept_cipher (s : State) (w : Word32) : (s.accept w).cipher = s.cipher := rfl
@[simp] theorem State.accept_state (s : State) (w : Word32) : (s.accept w).state = s.state := rfl
@[simp] theorem State.accept_K (s : State) (w : Word32) : (s.accept w).K = s.K := rfl
@[simp] theorem State.accept_KW (s : State) (w : Word32) : (s.accept w).KW = s.KW := rfl
@[simp] theorem State.accept_dropN (s : State) (w : Word32) : (s.accept w).dropN = s.dropN := rfl
@[simp] theorem State.accept_busy (s : State) (w : Word32) : (s.accept w).busy = true := rfl
@[simp] theorem State.accept_cmd (s : State) (w : Word32) : (s.accept w).cmd = w := rfl
@[simp] theorem State.accept_waited (s : State) (w : Word32) : (s.accept w).waited = 0 := rfl
@[simp] theorem State.accept_rspValid (s : State) (w : Word32) : (s.accept w).rspValid = s.rspValid := rfl
@[simp] theorem State.accept_rsp (s : State) (w : Word32) : (s.accept w).rsp = s.rsp := rfl
@[simp] theorem State.accept_inputs (s : State) (w : Word32) : (s.accept w).inputs = s.inputs := rfl
@[simp] theorem State.accept_held (s : State) (w : Word32) : (s.accept w).held = none := rfl
@[simp] theorem State.accept_responses (s : State) (w : Word32) : (s.accept w).responses = s.responses := rfl
@[simp] theorem State.accept_freeIndex (s : State) (w : Word32) : (s.accept w).freeIndex = s.freeIndex + 1 := rfl

@[simp] theorem State.consumeInput_cipher (s : State) : (s.consumeInput).cipher = s.cipher := rfl
@[simp] theorem State.consumeInput_state (s : State) : (s.consumeInput).state = s.state := rfl
@[simp] theorem State.consumeInput_K (s : State) : (s.consumeInput).K = s.K := rfl
@[simp] theorem State.consumeInput_KW (s : State) : (s.consumeInput).KW = s.KW := rfl
@[simp] theorem State.consumeInput_dropN (s : State) : (s.consumeInput).dropN = s.dropN := rfl
@[simp] theorem State.consumeInput_busy (s : State) : (s.consumeInput).busy = s.busy := rfl
@[simp] theorem State.consumeInput_cmd (s : State) : (s.consumeInput).cmd = s.cmd := rfl
@[simp] theorem State.consumeInput_waited (s : State) : (s.consumeInput).waited = s.waited := rfl
@[simp] theorem State.consumeInput_rspValid (s : State) : (s.consumeInput).rspValid = s.rspValid := rfl
@[simp] theorem State.consumeInput_rsp (s : State) : (s.consumeInput).rsp = s.rsp := rfl
@[simp] theorem State.consumeInput_inputs (s : State) : (s.consumeInput).inputs = s.inputs.tail := rfl
@[simp] theorem State.consumeInput_held (s : State) : (s.consumeInput).held = s.held := rfl
@[simp] theorem State.consumeInput_responses (s : State) : (s.consumeInput).responses = s.responses := rfl
@[simp] theorem State.consumeInput_freeIndex (s : State) : (s.consumeInput).freeIndex = s.freeIndex := rfl

@[simp] theorem State.resetEdge_state (s : State) : s.resetEdge.state = .uninitialized := rfl
@[simp] theorem State.resetEdge_KW (s : State) : s.resetEdge.KW = Vector.replicate 256 false := rfl
@[simp] theorem State.resetEdge_dropN (s : State) : s.resetEdge.dropN = Config.dropnReset := rfl
@[simp] theorem State.resetEdge_busy (s : State) : s.resetEdge.busy = false := rfl
@[simp] theorem State.resetEdge_cmd (s : State) : s.resetEdge.cmd = s.cmd := rfl
@[simp] theorem State.resetEdge_waited (s : State) : s.resetEdge.waited = s.waited := rfl
@[simp] theorem State.resetEdge_rspValid (s : State) : s.resetEdge.rspValid = false := rfl
@[simp] theorem State.resetEdge_rsp (s : State) : s.resetEdge.rsp = s.rsp := rfl
@[simp] theorem State.resetEdge_inputs (s : State) : s.resetEdge.inputs = s.inputs := rfl
@[simp] theorem State.resetEdge_held (s : State) : s.resetEdge.held = none := rfl
@[simp] theorem State.resetEdge_responses (s : State) : s.resetEdge.responses = s.responses := rfl
@[simp] theorem State.resetEdge_freeIndex (s : State) : s.resetEdge.freeIndex = s.freeIndex + 1 := rfl

end Sys2Proof.Machine
end

