-- ==== Sys2Proof/Laws/Ops.lean ====
section
/-! SUPPORT. Laws/Ops.lean: what each shared operation does, said once: tables, the swap, the key schedule, the PRGA steps,
the response word and the scan for an unwritten key byte. -/

namespace Sys2Proof.Machine

/-- A write is read back at its entry and leaves every other entry alone. -/
theorem tableRead_tableWrite (t : Table) (a v x : Byte) :
    tableRead (tableWrite t a v) x = if x = a then v else tableRead t x := by
  unfold tableRead tableWrite
  rw [Vector.getElem_set]
  by_cases h : x = a
  · simp [h]
  · have h' : a.toNat ≠ x.toNat := fun e => h (BitVec.eq_of_toNat_eq e.symm)
    simp [h, h']

/-- The swap of R10, entry by entry. -/
theorem tableRead_tableSwap (t : Table) (a b x : Byte) :
    tableRead (tableSwap t a b) x =
      if x = a then tableRead t b else if x = b then tableRead t a else tableRead t x := by
  simp only [tableSwap, tableRead_tableWrite]
  by_cases hb : x = b
  · by_cases ha : x = a
    · rw [if_pos hb, if_pos ha, ← ha, hb]
    · rw [if_pos hb, if_neg ha, if_pos hb]
  · by_cases ha : x = a
    · rw [if_neg hb, if_pos ha, if_pos ha]
    · rw [if_neg hb, if_neg ha, if_neg ha, if_neg hb]

/-- The entries of a table of free values. -/
theorem tableRead_unspecifiedTable (value : Byte → Byte) (a : Byte) : tableRead (unspecifiedTable value) a = value a := by
  unfold tableRead unspecifiedTable
  rw [Vector.getElem_ofFn]
  exact congrArg value (BitVec.eq_of_toNat_eq rfl)

/-- Two tables with the same entries are the same table. -/
theorem table_ext {t u : Table} (h : ∀ a, tableRead t a = tableRead u a) : t = u := by
  apply Vector.ext
  intro i hi
  have := h (BitVec.ofNat 8 i)
  simpa [tableRead, Nat.mod_eq_of_lt hi] using this

/-- The identity permutation reads as the index. -/
theorem tableRead_identityTable (a : Byte) : tableRead identityTable a = a := by
  simp [tableRead, identityTable]

/-- A swap moves each value to one other entry, so it keeps a permutation (R29). -/
theorem IsPermutation.swap {t : Table} (h : IsPermutation t) (a b : Byte) : IsPermutation (tableSwap t a b) := by
  intro v
  obtain ⟨x, hx, hu⟩ := h v
  have pull : ∀ y, tableRead (tableSwap t a b) y = tableRead t (if y = a then b else if y = b then a else y) := by
    intro y
    rw [tableRead_tableSwap]
    split_ifs <;> rfl
  have key : ∀ y, tableRead (tableSwap t a b) y = v ↔ (if y = a then b else if y = b then a else y) = x := fun y =>
    ⟨fun hy => hu _ ((pull y).symm.trans hy), fun hy => by rw [pull, hy]; exact hx⟩
  refine ⟨if x = a then b else if x = b then a else x, (key _).2 ?_, fun y hy => ?_⟩
  · by_cases ha : x = a
    · by_cases hb : b = a <;> simp [ha, hb]
    · by_cases hb : x = b <;> simp [ha, hb]
  · have := (key y).1 hy
    subst this
    by_cases ha : y = a
    · by_cases hb : b = a <;> simp [ha, hb]
    · by_cases hb : y = b <;> simp [ha, hb]

/-- The identity is a permutation. -/
theorem isPermutation_identityTable : IsPermutation identityTable := by
  intro v
  exact ⟨v, tableRead_identityTable v, fun y hy => by simpa [tableRead_identityTable] using hy⟩

/-- The key schedule keeps the permutation at every step. -/
theorem isPermutation_ksaAfter (K : Table) (L n : Nat) : IsPermutation (ksaAfter K L n).1 := by
  induction n with
  | zero => exact isPermutation_identityTable
  | succ n ih => exact ih.swap _ _

/-- The key schedule of `n` steps reads the key at indices below `L` only. -/
theorem ksaAfter_congr {K K' : Table} {L : Nat} (hL : 1 ≤ L) (hM : L ≤ 256)
    (h : ∀ a : Byte, a.toNat < L → tableRead K a = tableRead K' a) (n : Nat) : ksaAfter K L n = ksaAfter K' L n := by
  induction n with
  | zero => rfl
  | succ n ih =>
    have hlt : n % L < L := Nat.mod_lt _ hL
    have hk : tableRead K (BitVec.ofNat 8 (n % L)) = tableRead K' (BitVec.ofNat 8 (n % L)) := by
      apply h
      rw [BitVec.toNat_ofNat, Nat.mod_eq_of_lt (by omega)]
      exact hlt
    simp only [ksaAfter, ksaStep, ih, hk]

/-- Steps add up. -/
theorem prgaSteps_add (m n : Nat) (c : Cipher) : prgaSteps (m + n) c = prgaSteps n (prgaSteps m c) := by
  induction m generalizing c with
  | zero => simp [prgaSteps]
  | succ m ih => rw [Nat.succ_add]; exact ih (prgaStep c)

/-- The last step split off. -/
theorem prgaSteps_succ (n : Nat) (c : Cipher) : prgaSteps (n + 1) c = prgaStep (prgaSteps n c) := prgaSteps_add n 1 c

/-- The PRGA steps keep the permutation. -/
theorem isPermutation_prgaSteps (n : Nat) {c : Cipher} (h : IsPermutation c.S) : IsPermutation (prgaSteps n c).S := by
  induction n generalizing c with
  | zero => exact h
  | succ n ih => exact ih (h.swap _ _)

/-- The four fields of a response word. -/
theorem responseWord_fields (p : Phase) (c : Status) (d : Byte) :
    rspReserved (responseWord p c d) = 0#4 ∧ rspRdy (responseWord p c d) = p.bit ∧
      rspCode (responseWord p c d) = c.code ∧ rspDout (responseWord p c d) = d := by
  refine ⟨?_, ?_, ?_, ?_⟩ <;> cases p <;> cases c <;> revert d <;> decide

/-- `KW` after a KEYB: the entry written, and those written before. -/
theorem keyByteWritten_withKeyByte (s : State) (a v x : Byte) :
    (s.withKeyByte a v).keyByteWritten x = (x == a || s.keyByteWritten x) := by
  unfold State.keyByteWritten State.withKeyByte
  simp only [Vector.getElem_set]
  by_cases h : x = a
  · simp [h]
  · have h' : a.toNat ≠ x.toNat := fun e => h (BitVec.eq_of_toNat_eq e.symm)
    simp [h, h']

/-- The scan finds nothing exactly when the whole key is written. -/
theorem firstUnwrittenKeyByte_eq_none {s : State} {L : Nat} (hL : L ≤ 256) :
    s.firstUnwrittenKeyByte L = none ↔ KeyLoaded s L := by
  unfold State.firstUnwrittenKeyByte KeyLoaded
  rw [List.find?_eq_none]
  simp only [List.mem_map, List.mem_range, Bool.not_eq_eq_eq_not, Bool.not_true, Bool.not_eq_false]
  constructor
  · intro h a ha
    exact h a ⟨a.toNat, ha, by simp⟩
  · rintro h _ ⟨n, hn, rfl⟩
    apply h
    rw [BitVec.toNat_ofNat, Nat.mod_eq_of_lt (by omega)]
    exact hn

/-- What the scan finds is a byte of the key that is not written. -/
theorem firstUnwrittenKeyByte_eq_some {s : State} {L : Nat} {a : Byte} (hL : L ≤ 256)
    (h : s.firstUnwrittenKeyByte L = some a) : a.toNat < L ∧ s.keyByteWritten a = false := by
  unfold State.firstUnwrittenKeyByte at h
  have hp := List.find?_some h
  have hm := List.mem_of_find?_eq_some h
  simp only [List.mem_map, List.mem_range] at hm
  obtain ⟨n, hn, rfl⟩ := hm
  refine ⟨?_, by simpa using hp⟩
  rw [BitVec.toNat_ofNat, Nat.mod_eq_of_lt (by omega)]
  exact hn

/-- INIT's length check is R68's. -/
theorem keyLengthInvalid_iff (L : Nat) : keyLengthInvalid L = true ↔ L = 0 ∨ 256 < L := by
  unfold keyLengthInvalid
  rw [Bool.or_eq_true, decide_eq_true_iff, decide_eq_true_iff]
  show L < 1 ∨ 256 < L ↔ _
  omega

end Sys2Proof.Machine
end

