-- ==== Sys2Proof/Laws/Exec.lean ====
section
/-! SUPPORT. Laws/Exec.lean: what each meaning answers, said once, and what any executed word can do. -/

namespace Sys2Proof.Machine

/-- INIT of an illegal length. -/
theorem execInit_illegal {klen : KeyLen} {s : State} (h : ¬ LegalKeyLength klen) :
    execInit klen s = .next (s.raiseStatus .invalidKeyLength) := by
  have : keyLengthInvalid (keyLength klen) = true := (keyLengthInvalid_iff _).2 (by unfold keyLength; omega)
  simp [execInit, this]

/-- INIT of a legal length, before the key is looked at. -/
theorem execInit_legal {klen : KeyLen} {s : State} (h : LegalKeyLength klen) :
    execInit klen s =
      match s.firstUnwrittenKeyByte klen.toNat with
      | some a => .fault (.unwrittenKeyByte a)
      | none =>
        .next (((s.withCipher (constructCipher s.K klen.toNat s.dropN.toNat)).withPhase .ready).respond .ok 0x00#8) := by
  have : ¬ keyLengthInvalid (keyLength klen) = true := fun e => by
    have := (keyLengthInvalid_iff _).1 e
    unfold keyLength at this
    omega
  unfold execInit
  rw [if_neg this]
  rfl

/-- INIT of a legal length over a written key. -/
theorem execInit_loaded {klen : KeyLen} {s : State} (h : LegalKeyLength klen) (hk : KeyLoaded s klen.toNat) :
    execInit klen s =
      .next (((s.withCipher (constructCipher s.K klen.toNat s.dropN.toNat)).withPhase .ready).respond .ok 0x00#8) := by
  rw [execInit_legal h, (firstUnwrittenKeyByte_eq_none h.2).2 hk]

/-- Everything INIT can do. -/
theorem execInit_cases (klen : KeyLen) (s : State) :
    (¬ LegalKeyLength klen ∧ execInit klen s = .next (s.raiseStatus .invalidKeyLength)) ∨
    (LegalKeyLength klen ∧ ∃ a : Byte, a.toNat < klen.toNat ∧ s.keyByteWritten a = false ∧
      execInit klen s = .fault (.unwrittenKeyByte a)) ∨
    (LegalKeyLength klen ∧ KeyLoaded s klen.toNat ∧ execInit klen s =
      .next (((s.withCipher (constructCipher s.K klen.toNat s.dropN.toNat)).withPhase .ready).respond .ok 0x00#8)) := by
  by_cases h : LegalKeyLength klen
  · right
    cases hf : s.firstUnwrittenKeyByte klen.toNat with
    | some a =>
      obtain ⟨h1, h2⟩ := firstUnwrittenKeyByte_eq_some h.2 hf
      exact .inl ⟨h, a, h1, h2, by rw [execInit_legal h, hf]⟩
    | none =>
      have hk := (firstUnwrittenKeyByte_eq_none h.2).1 hf
      exact .inr ⟨h, hk, execInit_loaded h hk⟩
  · exact .inl ⟨h, execInit_illegal h⟩

/-- DROP while `Ready`. -/
theorem execDrop_ready {cnt : Count} {s : State} (h : s.state = .ready) :
    execDrop cnt s = .next ((s.withCipher (prgaSteps cnt.toNat s.cipher)).respond .ok 0x00#8) := if_pos h

/-- DROP while `Uninitialized`. -/
theorem execDrop_uninitialized {cnt : Count} {s : State} (h : s.state = .uninitialized) :
    execDrop cnt s = .next (s.raiseStatus .notReady) := if_neg (by simp [h])

/-- XFORM while `Ready`. -/
theorem execXform_ready {din : Byte} {s : State} (h : s.state = .ready) :
    execXform din s =
      .next ((s.withCipher (prgaStep s.cipher)).respond .ok (din ^^^ keystreamByte (prgaStep s.cipher))) := if_pos h

/-- XFORM while `Uninitialized`. -/
theorem execXform_uninitialized {din : Byte} {s : State} (h : s.state = .uninitialized) :
    execXform din s = .next (s.raiseStatus .notReady) := if_neg (by simp [h])

/-- Executing a word that decodes. -/
theorem execWord_ok {w : Word32} {i : Instr} (h : decode w = .ok i) (s : State) : execWord w s = exec i s := by
  simp [execWord, h]

/-- Executing a word that does not. -/
theorem execWord_error {w : Word32} {e : DecodeError} (h : decode w = .error e) (s : State) :
    execWord w s = .next (s.raiseStatus .illegalCommand) := by
  simp [execWord, h, execIllegal]

/-- Everything an executed word can do, in one list: the decoded command, the condition, and the outcome. Proofs about
all words split on it. -/
inductive WordEffect (w : Word32) (s : State) : Host.Outcome State Fault Refusal → Prop
  | illegal (e : DecodeError) (hd : decode w = .error e) : WordEffect w s (.next (s.respond .illegalCommand 0x00#8))
  | nop (hd : decode w = .ok .nop) : WordEffect w s (.next (s.respond .ok 0x00#8))
  | keyb (idx kdata : Byte) (hd : decode w = .ok (.keyb idx kdata)) :
      WordEffect w s (.next ((s.withKeyByte idx kdata).respond .ok 0x00#8))
  | setdrop (cnt : Count) (hd : decode w = .ok (.setdrop cnt)) :
      WordEffect w s (.next ((s.withDropN cnt).respond .ok 0x00#8))
  | initIllegal (klen : KeyLen) (hd : decode w = .ok (.init klen)) (hl : ¬ LegalKeyLength klen) :
      WordEffect w s (.next (s.respond .invalidKeyLength 0x00#8))
  | initUnwritten (klen : KeyLen) (a : Byte) (hd : decode w = .ok (.init klen)) (hl : LegalKeyLength klen)
      (ha : a.toNat < klen.toNat) (hw : s.keyByteWritten a = false) : WordEffect w s (.fault (.unwrittenKeyByte a))
  | initLoaded (klen : KeyLen) (hd : decode w = .ok (.init klen)) (hl : LegalKeyLength klen)
      (hk : KeyLoaded s klen.toNat) :
      WordEffect w s (.next
        (((s.withCipher (constructCipher s.K klen.toNat s.dropN.toNat)).withPhase .ready).respond .ok 0x00#8))
  | dropNotReady (cnt : Count) (hd : decode w = .ok (.drop cnt)) (hs : s.state = .uninitialized) :
      WordEffect w s (.next (s.respond .notReady 0x00#8))
  | drop (cnt : Count) (hd : decode w = .ok (.drop cnt)) (hs : s.state = .ready) :
      WordEffect w s (.next ((s.withCipher (prgaSteps cnt.toNat s.cipher)).respond .ok 0x00#8))
  | xformNotReady (din : Byte) (hd : decode w = .ok (.xform din)) (hs : s.state = .uninitialized) :
      WordEffect w s (.next (s.respond .notReady 0x00#8))
  | xform (din : Byte) (hd : decode w = .ok (.xform din)) (hs : s.state = .ready) :
      WordEffect w s (.next
        ((s.withCipher (prgaStep s.cipher)).respond .ok (din ^^^ keystreamByte (prgaStep s.cipher))))

/-- `STATE` has two values. -/
theorem Phase.uninitialized_or_ready (p : Phase) : p = .uninitialized ∨ p = .ready := by
  cases p <;> simp

/-- The list is complete. -/
theorem execWord_effect (w : Word32) (s : State) : WordEffect w s (execWord w s) := by
  cases hd : decode w with
  | error e => rw [execWord_error hd]; exact .illegal e hd
  | ok i =>
    rw [execWord_ok hd]
    cases i with
    | nop => exact .nop hd
    | keyb idx kdata => exact .keyb idx kdata hd
    | setdrop cnt => exact .setdrop cnt hd
    | init klen =>
      change WordEffect w s (execInit klen s)
      obtain ⟨hl, e⟩ | ⟨hl, a, ha, hw, e⟩ | ⟨hl, hk, e⟩ := execInit_cases klen s <;> rw [e]
      · exact .initIllegal klen hd hl
      · exact .initUnwritten klen a hd hl ha hw
      · exact .initLoaded klen hd hl hk
    | drop cnt =>
      change WordEffect w s (execDrop cnt s)
      obtain hs | hs := s.state.uninitialized_or_ready
      · rw [execDrop_uninitialized hs]; exact .dropNotReady cnt hd hs
      · rw [execDrop_ready hs]; exact .drop cnt hd hs
    | xform din =>
      change WordEffect w s (execXform din s)
      obtain hs | hs := s.state.uninitialized_or_ready
      · rw [execXform_uninitialized hs]; exact .xformNotReady din hd hs
      · rw [execXform_ready hs]; exact .xform din hd hs

end Sys2Proof.Machine
end

