-- ==== Sys2Proof/Laws/PerInstr.lean ====
section
/-! SUPPORT. Laws/PerInstr.lean: statements made per command, about its syntax. The family EncodeInRow: the word a command is
encoded as lies in its own row of the opcode map (spec 30_encoding.md R53). -/

namespace Sys2Proof.Laws

-- One theorem at a time: fewer threads, so less memory.
set_option Elab.async false

/-- The word of a command matches the mask and match columns of its mnemonic's row. -/
def EncodeInRow.Statement (i : Instr) : Prop := i.sourceLine.mnemonic.matchesWord (encode i) = true

theorem EncodeInRow.nop : EncodeInRow.Statement .nop := by
  unfold EncodeInRow.Statement; decide

theorem EncodeInRow.keyb (idx kdata : Byte) : EncodeInRow.Statement (.keyb idx kdata) := by
  simp only [EncodeInRow.Statement, Instr.sourceLine, Mnemonic.matchesWord, encode, Mnemonic.mask, Mnemonic.pattern,
    beq_iff_eq]
  ext i hi
  interval_cases i <;> simp

theorem EncodeInRow.setdrop (cnt : Count) : EncodeInRow.Statement (.setdrop cnt) := by
  simp only [EncodeInRow.Statement, Instr.sourceLine, Mnemonic.matchesWord, encode, Mnemonic.mask, Mnemonic.pattern,
    beq_iff_eq]
  ext i hi
  interval_cases i <;> simp

theorem EncodeInRow.init (klen : KeyLen) : EncodeInRow.Statement (.init klen) := by
  simp only [EncodeInRow.Statement, Instr.sourceLine, Mnemonic.matchesWord, encode, Mnemonic.mask, Mnemonic.pattern,
    beq_iff_eq]
  ext i hi
  interval_cases i <;> simp

theorem EncodeInRow.drop (cnt : Count) : EncodeInRow.Statement (.drop cnt) := by
  simp only [EncodeInRow.Statement, Instr.sourceLine, Mnemonic.matchesWord, encode, Mnemonic.mask, Mnemonic.pattern,
    beq_iff_eq]
  ext i hi
  interval_cases i <;> simp

theorem EncodeInRow.xform (din : Byte) : EncodeInRow.Statement (.xform din) := by
  simp only [EncodeInRow.Statement, Instr.sourceLine, Mnemonic.matchesWord, encode, Mnemonic.mask, Mnemonic.pattern,
    beq_iff_eq]
  ext i hi
  interval_cases i <;> simp

end Sys2Proof.Laws
end

