-- ==== Sys2Proof/Laws/Step.lean ====
section
/-! SUPPORT. Laws/Step.lean: everything one edge can do, said once; the step's proofs split on it. -/

namespace Sys2Proof.Machine

/-- The five things that can happen at an edge. -/
theorem State.edge_cases (s : State) (p : Pins) :
    (p.rst = true ∧ s.edge p = .next s.resetEdge) ∨
    (p.rst = false ∧ s.breaksHold p = true ∧ s.edge p = .refused .commandNotHeld) ∨
    (p.rst = false ∧ s.breaksHold p = false ∧ s.busy = true ∧ s.edge p = .next (s.responseEdge p)) ∨
    (p.rst = false ∧ s.breaksHold p = false ∧ s.busy = false ∧ p.cmdValid = true ∧
      s.edge p = execWord p.cmdData (s.accept p.cmdData)) ∨
    (p.rst = false ∧ s.breaksHold p = false ∧ s.busy = false ∧ p.cmdValid = false ∧ s.edge p = .next s) := by
  unfold State.edge State.commandEdge
  cases h1 : p.rst <;> cases h2 : s.breaksHold p <;> cases h3 : s.busy <;> cases h4 : p.cmdValid <;> simp

/-- The three things a busy engine can do. -/
theorem State.responseEdge_cases (s : State) (p : Pins) :
    (s.rspValid = true ∧ p.rspReady = true ∧ s.responseEdge p =
      { s with rspValid := false, busy := false, responses := s.responses ++ [s.rsp], held := p.offered }) ∨
    (s.rspValid = true ∧ p.rspReady = false ∧ s.responseEdge p = { s with held := p.offered }) ∨
    (s.rspValid = false ∧ s.responseEdge p = { s with
      waited := s.waited + 1, rspValid := decide (s.responseDelay ≤ s.waited + 1), held := p.offered }) := by
  unfold State.responseEdge
  cases h1 : s.rspValid <;> cases h2 : p.rspReady <;> simp

/-- The host keeps a word it left offered exactly when it offers it again. -/
theorem State.breaksHold_iff (s : State) (p : Pins) :
    s.breaksHold p = true ↔ ∃ w, s.held = some w ∧ p.offered ≠ some w := by
  unfold State.breaksHold
  cases s.held <;> simp

/-- A run's first step. -/
theorem run_succ_of_next {n : Nat} {s t : State} (h : step s = .next t) :
    Sys2Proof.core.run (n + 1) s = Sys2Proof.core.run n t := by
  have h' : Sys2Proof.core.step s = .next t := h
  simp only [Host.Core.run, h']

end Sys2Proof.Machine
end

