-- ==== Sys2Proof/Tests/Slice0.lean ====
section
/-! SUPPORT. Tests/Slice0.lean: tests with expected results from spec/ (95_test_vectors.md unless said otherwise), and a
witness for the hypotheses of every statement of the certificate that has some. -/

namespace Sys2Proof.Tests

-- One theorem at a time: fewer threads, so less memory.
set_option Elab.async false

open Sys2Proof.Machine

/-! ## Small states -/

/-- Reset, with every key byte written (as 0). -/
def keyed : State := { State.reset with KW := Vector.replicate 256 true }

/-- `keyed`, with other contents in `S`, `I`, `J`. -/
def keyedOther : State := { keyed with cipher := ⟨identityTable, 3#8, 4#8⟩ }

/-- Reset after `KEYB 0, 0` (`K[0]` written, no other). -/
def oneKeyByte : State := State.reset.withKeyByte 0x00#8 0x00#8

/-- Reset, "Key" staged, `DROPN` = 0: the start of V-INIT-3. -/
def stagedKey : State :=
  (((State.reset.withDropN 0#28).withKeyByte 0x00#8 0x4B#8).withKeyByte 0x01#8 0x65#8).withKeyByte 0x02#8 0x79#8

/-- `Ready` with the identity S-box, the end of V-INIT-7. -/
def ready : State := { State.reset with cipher := ⟨identityTable, 0#8, 0#8⟩, state := .ready, dropN := 0#28 }

/-- `ready`, with other values staged. -/
def readyStaged : State := (ready.withKeyByte 0x05#8 0x77#8).withDropN 9#28

/-- `ready`, executing an XFORM whose response is not offered yet. -/
def running : State := { ready with busy := true, cmd := 0x50000000#32, rsp := 0x0802#16 }

/-- `running`, with its response offered. -/
def answering : State := { running with rspValid := true }

/-- A state at whose next edge the ports stand as given. -/
def atPins (s : State) (p : Pins) : State := { s with inputs := [p] }

/-- The response of an outcome, and the responses of a run. -/
def responseOf : Host.Outcome State Fault Refusal → Option Word16
  | .next t => some t.rsp
  | _ => none

/-- The responses of a run. -/
def responsesOf : Host.Outcome (State × List Word16) Fault Refusal → Option (List Word16)
  | .next (_, rs) => some rs
  | _ => none

/-! ## WellFormed: each check refuses a line (30_encoding.md R58) -/

theorem test_wellFormed_accepts : [(⟨.nop, []⟩ : SourceLine), ⟨.keyb, [255, 255]⟩, ⟨.setdrop, [268435455]⟩, ⟨.init, [511]⟩,
    ⟨.drop, [268435455]⟩, ⟨.xform, [255]⟩].all SourceLine.wellFormed = true := by decide

theorem test_wellFormed_refuses_range : [(⟨.keyb, [256, 0]⟩ : SourceLine), ⟨.keyb, [0, 256]⟩, ⟨.setdrop, [268435456]⟩,
    ⟨.init, [512]⟩, ⟨.drop, [268435456]⟩, ⟨.xform, [256]⟩].any SourceLine.wellFormed = false := by decide

theorem test_wellFormed_refuses_count : [(⟨.nop, [0]⟩ : SourceLine), ⟨.keyb, [0]⟩, ⟨.keyb, [0, 0, 0]⟩, ⟨.setdrop, []⟩,
    ⟨.init, []⟩, ⟨.drop, [1, 2]⟩, ⟨.xform, []⟩].any SourceLine.wellFormed = false := by decide

/-! ## Decoding: words written field by field from the formats of 30_encoding.md R47 to R52 -/

/-- Format N: `OP` 0x0, bits 27:0 zero. -/
theorem test_decode_nop : decode (0b0000#4 ++ 0#28) = .ok .nop := by decide

/-- Format K: `OP` 0x1, bits 27:16 zero, `IDX` in 15:8, `KDATA` in 7:0 (R61: `KEYB 2, 121`). -/
theorem test_decode_keyb : decode (0b0001#4 ++ 0#12 ++ 0b00000010#8 ++ 0b01111001#8) = .ok (.keyb 2 121) := by decide

/-- Format D: `OP` 0x2, `CNT` in 27:0 (R61: `SETDROP 3072`). -/
theorem test_decode_setdrop : decode (0b0010#4 ++ 0b0000000000000000110000000000#28) = .ok (.setdrop 3072) := by decide

/-- Format L: `OP` 0x3, bits 27:9 zero, `KLEN` in 8:0 (R61: `INIT 256`). -/
theorem test_decode_init : decode (0b0011#4 ++ 0#19 ++ 0b100000000#9) = .ok (.init 256) := by decide

/-- Format D: `OP` 0x4, `CNT` in 27:0 (R61: `DROP 268435455`). -/
theorem test_decode_drop : decode (0b0100#4 ++ 0b1111111111111111111111111111#28) = .ok (.drop 268435455) := by decide

/-- Format X: `OP` 0x5, bits 27:8 zero, `DIN` in 7:0 (R61: `XFORM 0x50`). -/
theorem test_decode_xform : decode (0b0101#4 ++ 0#20 ++ 0b01010000#8) = .ok (.xform 0x50) := by decide

/-- V-DEC-2, V-DEC-4, V-DEC-6, V-DEC-9 to V-DEC-12: the illegal words. -/
theorem test_decode_illegal : [0x00000001#32, 0x1001004B#32, 0x30000200#32, 0x50000150#32, 0x60000000#32, 0xF0000000#32,
    0xFFFFFFFF#32].all (fun w => (decode w).toOption = none) = true := by decide

/-- The syntax table of R58 on V-KEYB-3 and V-INIT-9. -/
theorem test_encode : encode (.keyb 5 0) = 0x10000500#32 ∧ encode (.init 300) = 0x3000012C#32 := by decide

/-- R58: the text of a line, with white space, a comment and a hexadecimal number. -/
theorem test_assembleText :
    assembleText ['X', 'F', 'O', 'R', 'M', ' ', '0', 'x', '5', '0', ' ', ';', 'P'] = some 0x50000050#32 ∧
      assembleText ['X', 'F', 'O', 'R', 'M', ' ', '2', '5', '6'] = none := by decide

/-- R59. -/
theorem test_disassemble : disassemble 0x10000279#32 = ['K', 'E', 'Y', 'B', ' ', '2', ',', ' ', '1', '2', '1'] ∧
    disassemble 0x60000000#32 = ['.', 'w', 'o', 'r', 'd', ' ', '0', 'x', '6', '0', '0', '0', '0', '0', '0', '0'] := by decide

/-- A link that sends the least significant byte first (one value of Q4). -/
theorem test_link : wordOfLink 1 ⟨#[0x79#8, 0x02#8, 0x00#8, 0x10#8], rfl⟩ = 0x10000279#32 := by decide

/-! ## The commands -/

/-- V-NOP-1, and V-NOP-2's response. -/
theorem test_nop : responseOf (execWord 0x00000000#32 State.reset) = some 0x0000#16 ∧
    responseOf (execWord 0x00000000#32 ready) = some 0x0800#16 := by decide +kernel

/-- V-KEYB-1. -/
theorem test_keyb : ∃ t, execWord 0x1000004B#32 State.reset = .next t ∧ t.rsp = 0x0000#16 ∧ tableRead t.K 0 = 0x4B#8 ∧
    t.keyByteWritten 0 = true ∧ t.keyByteWritten 1 = false := ⟨_, rfl, by decide +kernel⟩

/-- V-KEYB-2: the last write wins. -/
theorem test_keyb_twice : ∃ t u, execWord 0x10000001#32 State.reset = .next t ∧ execWord 0x10000002#32 t = .next u ∧
    tableRead u.K 0 = 0x02#8 := ⟨_, _, rfl, rfl, by decide +kernel⟩

/-- V-SETDROP-2. -/
theorem test_setdrop : ∃ t, execWord 0x2FFFFFFF#32 State.reset = .next t ∧ t.rsp = 0x0000#16 ∧ t.dropN = 0xFFFFFFF#28 :=
  ⟨_, rfl, by decide +kernel⟩

/-- V-SETDROP-3: the response and the keystream position while `Ready`. -/
theorem test_setdrop_ready : ∃ t, execWord 0x20000003#32 ready = .next t ∧ t.rsp = 0x0800#16 ∧ t.dropN = 3#28 ∧
    t.cipher.I = 0#8 := ⟨_, rfl, by decide +kernel⟩

/-- V-INIT-1, V-INIT-2, V-ERR-2 and V-INIT-11. -/
theorem test_init_checks : responseOf (execWord 0x30000000#32 State.reset) = some 0x0100#16 ∧
    responseOf (execWord 0x30000101#32 keyed) = some 0x0100#16 ∧
    responseOf (execWord 0x30000101#32 ready) = some 0x0900#16 ∧
    execWord 0x30000002#32 oneKeyByte = .fault (.unwrittenKeyByte 1#8) :=
  ⟨by decide +kernel, by decide +kernel, by decide +kernel, rfl⟩

/-- V-INIT-3 and G-1 (P1 rows 5 to 7): the key schedule of "Key" and the first two bytes of the published ciphertext. -/
theorem test_init_key : responsesOf (transact [0x30000003#32, 0x50000050#32, 0x5000006C#32] stagedKey) =
    some [0x0800#16, 0x08BB#16, 0x08F3#16] := by decide +kernel

/-- V-DROP-5. -/
theorem test_drop_not_ready : responseOf (execWord 0x40000005#32 State.reset) = some 0x0200#16 := by decide +kernel

/-- V-XFORM-4's third and fourth keystream bytes, the first two dropped. -/
theorem test_drop : responsesOf (transact [0x40000002#32, 0x50000000#32, 0x50000000#32] ready) =
    some [0x0800#16, 0x0807#16, 0x080D#16] := by decide +kernel

/-- V-XFORM-8. -/
theorem test_xform_not_ready : responseOf (execWord 0x50000000#32 State.reset) = some 0x0200#16 := by decide +kernel

/-- V-XFORM-4: the identity S-box, the first step with `I` = `J`. -/
theorem test_xform : responsesOf (transact (List.replicate 6 0x50000000#32) ready) =
    some [0x0802#16, 0x0805#16, 0x0807#16, 0x080D#16, 0x080D#16, 0x0817#16] := by decide +kernel

/-- V-ERR-4, V-ERR-5, V-ERR-6. -/
theorem test_illegal : responseOf (execWord 0x60000000#32 State.reset) = some 0x0300#16 ∧
    responseOf (execWord 0x60000000#32 ready) = some 0x0B00#16 ∧
    responseOf (execWord 0x50000150#32 State.reset) = some 0x0300#16 := by decide +kernel

/-! ## The edge -/

/-- R15, R105: with nothing offered the first step after reset is no command's. -/
theorem test_step_reset : step State.reset = .next State.reset := rfl

/-- A placed word is executed at the next edge. -/
theorem test_step_placed : ∃ t, step (State.reset.withFetchWord 32 0x1000004B) = .next t ∧ t.rsp = 0x0000#16 ∧
    t.busy = true ∧ tableRead t.K 0 = 0x4B#8 := ⟨_, rfl, by decide +kernel⟩

/-- R24: an offered response is taken. -/
theorem test_step_takes : ∃ t, step (atPins answering ⟨false, false, 0#32, true⟩) = .next t ∧ t.responses = [0x0802#16] ∧
    t.cmdReady = true := ⟨_, rfl, by decide +kernel⟩

/-- R24, U5: a word offered while busy and then changed. -/
theorem test_step_refuses : ∃ t, step (atPins running ⟨false, true, 0x00000000#32, false⟩) = .next t ∧
    step (atPins t ⟨false, true, 0x20000000#32, false⟩) = .refused .commandNotHeld := ⟨_, rfl, rfl⟩

/-! ## Witnesses for the hypotheses of the certificate's statements -/

theorem keyed_loaded (L : Nat) : KeyLoaded keyed L := by
  intro a _
  simp [State.keyByteWritten, keyed]

theorem keyedOther_loaded (L : Nat) : KeyLoaded keyedOther L := by
  intro a _
  simp [State.keyByteWritten, keyedOther, keyed]

/-- INIT of a whole written key completes; nothing is evaluated. -/
theorem keyed_init (klen : KeyLen) (h : LegalKeyLength klen) (s : State) (hs : KeyLoaded s klen.toNat) :
    ∃ t, exec (.init klen) s = .next t ∧ t.state = .ready := ⟨_, execInit_loaded h hs, rfl⟩

/-- A table unlike the reset state's `K` at entry 1 alone. -/
def otherKey : Table := tableWrite State.reset.K 0x01#8 0x99#8

theorem otherKey_agrees : ∀ a, oneKeyByte.keyByteWritten a = true → tableRead otherKey a = tableRead oneKeyByte.K a := by
  decide +kernel

theorem witness_UnspecifiedContentsUnobservable_completes : oneKeyByte.state = .uninitialized ∧
    (∀ a, oneKeyByte.keyByteWritten a = true → tableRead otherKey a = tableRead oneKeyByte.K a) ∧
    ∃ t rs, transact [0x30000001#32] oneKeyByte = .next (t, rs) ∧ t.state = .ready := by
  refine ⟨rfl, otherKey_agrees, ?_⟩
  have hk : KeyLoaded oneKeyByte (1#9).toNat := by unfold KeyLoaded; decide +kernel
  have hd : execWord 0x30000001#32 oneKeyByte = exec (.init 1) oneKeyByte := rfl
  obtain ⟨t, ht, hr⟩ := keyed_init 1#9 (by decide) oneKeyByte hk
  exact ⟨t, [t.rsp], by simp only [transact, hd, show exec (.init 1) oneKeyByte = .next t from ht], hr⟩

theorem witness_UnspecifiedContentsUnobservable_faults : oneKeyByte.state = .uninitialized ∧
    transact [0x30000002#32] oneKeyByte = .fault (.unwrittenKeyByte 1#8) := ⟨rfl, rfl⟩

theorem witness_ResetEdgeClearsEngine : (atPins answering ⟨true, true, 0x00000000#32, true⟩).pins.rst = true := rfl

theorem witness_ResetAbandonsCommand :
    let s : State := { running with inputs := [⟨true, false, 0#32, false⟩, ⟨false, false, 0#32, true⟩] }
    s.pins.rst = true ∧ (∀ p ∈ s.inputs.tail, p.cmdValid = false) ∧ ∃ t, step s = .next t :=
  ⟨rfl, by simp, ⟨_, rfl⟩⟩

theorem witness_IdleEngineNeverActs :
    let s := atPins ready ⟨false, false, 7#32, true⟩
    Idle s ∧ ∀ p ∈ s.inputs, p.rst = false ∧ p.cmdValid = false := ⟨⟨rfl, rfl, rfl⟩, by simp [atPins]⟩

theorem witness_EncodeDecodeRoundTrip : (Instr.setdrop 0xFFFFFFF#28).WellFormed ∧ (Instr.init 511#9).WellFormed ∧
    (Instr.keyb 255#8 0#8).WellFormed ∧ decode 0x300001FF#32 = .ok (.init 511) := by decide

theorem witness_IllegalWordsAreRejected : decode 0x5FFFFFFF#32 = .error (.reservedBit 5) ∧
    decode 0x60000000#32 = .error (.reservedOpcode 6) ∧ decode 0x00000001#32 = .error (.reservedBit 0) ∧
    decode 0x10010000#32 = .error (.reservedBit 1) ∧ decode 0x30000200#32 = .error (.reservedBit 3) ∧
    decode 0x50000100#32 = .error (.reservedBit 5) ∧ decode 0x4FFFFFFF#32 = .ok (.drop 268435455) := by decide

theorem witness_OpcodeMapMatchesDecoder : Mnemonic.init.matchesWord 0x300001FF#32 = true ∧
    Mnemonic.init.matchesWord 0x30000200#32 = false ∧ Mnemonic.nop.matchesWord 0#32 = true := by decide

theorem witness_OperandsAreFields : decode 0#32 = .ok .nop ∧ decode 0x1000FF00#32 = .ok (.keyb 255 0) ∧
    decode 0x2FFFFFFF#32 = .ok (.setdrop 268435455) ∧ decode 0x30000100#32 = .ok (.init 256) ∧
    decode 0x40000000#32 = .ok (.drop 0) ∧ decode 0x500000FF#32 = .ok (.xform 255) := by decide

theorem witness_NopReportsStatus : (0x0FFFFFFF#32).toNat / 2 ^ 28 = 0 ∧ 0x0FFFFFFF#32 ≠ 0#32 := by decide

theorem witness_KeybWritesOneKeyByte :
    ((0x1000FFFF#32).toNat / 2 ^ 28 = 1 ∧ (0x1000FFFF#32).toNat / 2 ^ 16 % 2 ^ 12 = 0) ∧
    (0x10010000#32).toNat / 2 ^ 28 = 1 ∧ (0x10010000#32).toNat / 2 ^ 16 % 2 ^ 12 ≠ 0 := by decide

theorem witness_KeybWritesOneKeyByte_unread : (255#9).toNat ≤ (255#8).toNat ∧ ∃ u, exec (.init 255) keyed = .next u := by
  obtain ⟨u, hu, -⟩ := keyed_init 255#9 (by decide) keyed (keyed_loaded _)
  exact ⟨by decide, u, hu⟩

theorem witness_SetdropWritesDropCount : (0x2FFFFFFF#32).toNat / 2 ^ 28 = 2 ∧ LegalKeyLength 256#9 ∧
    KeyLoaded keyed (256#9).toNat := ⟨by decide, by decide, keyed_loaded _⟩

theorem witness_InitConstructsEngine_lengths : ((0#9).toNat = 0 ∨ 256 < (0#9).toNat) ∧
    ((257#9).toNat = 0 ∨ 256 < (257#9).toNat) ∧ LegalKeyLength 1#9 ∧ LegalKeyLength 256#9 := by decide

theorem witness_InitConstructsEngine_unwritten : LegalKeyLength 2#9 ∧
    ∃ a : Byte, a.toNat < (2#9).toNat ∧ oneKeyByte.keyByteWritten a = false := ⟨by decide, 1#8, by decide +kernel⟩

theorem witness_InitConstructsEngine_loaded : (LegalKeyLength 1#9 ∧ KeyLoaded keyed (1#9).toNat) ∧
    LegalKeyLength 256#9 ∧ KeyLoaded keyed (256#9).toNat :=
  ⟨⟨by decide, keyed_loaded _⟩, by decide, keyed_loaded _⟩

theorem witness_InitConstructsEngine_words :
    ((0x300001FF#32).toNat / 2 ^ 28 = 3 ∧ (0x300001FF#32).toNat / 2 ^ 9 % 2 ^ 19 = 0) ∧
    (0x30000200#32).toNat / 2 ^ 28 = 3 ∧ (0x30000200#32).toNat / 2 ^ 9 % 2 ^ 19 ≠ 0 := by decide

theorem witness_InitRejectsBadLength : ((257#9).toNat = 0 ∨ 256 < (257#9).toNat) ∧
    ∃ t, exec (.init 257) keyed = .next t ∧ rspCode t.rsp = 1#3 := ⟨by decide, _, rfl, by decide +kernel⟩

/-- V-XFORM-4's first step has `I` = `J` = 1. -/
theorem witness_PrgaStepFollowsRule : (prgaStep ready.cipher).J = (prgaStep ready.cipher).I := by decide +kernel

/-- A table that differs at entries the step does not read. -/
theorem witness_PrgaStepFollowsRule_reads :
    let c := ready.cipher
    let d : Cipher := { c with S := tableSwap c.S 200#8 201#8 }
    d.I = c.I ∧ d.J = c.J ∧
      tableRead d.S (prgaStep c).I = tableRead c.S (prgaStep c).I ∧
      tableRead d.S (prgaStep c).J = tableRead c.S (prgaStep c).J ∧ tableRead d.S 200#8 ≠ tableRead c.S 200#8 := by
  decide +kernel

theorem witness_DropAdvancesKeystream : ready.state = .ready ∧ State.reset.state = .uninitialized ∧
    (0x4FFFFFFF#32).toNat / 2 ^ 28 = 4 := ⟨rfl, rfl, by decide⟩

theorem witness_XformTransformsByte : ready.state = .ready ∧ State.reset.state = .uninitialized ∧
    ((0x500000FF#32).toNat / 2 ^ 28 = 5 ∧ (0x500000FF#32).toNat / 2 ^ 8 % 2 ^ 20 = 0) ∧
    (0x50000100#32).toNat / 2 ^ 28 = 5 ∧ (0x50000100#32).toNat / 2 ^ 8 % 2 ^ 20 ≠ 0 := ⟨rfl, rfl, by decide⟩

theorem witness_ResponsesAreAssembled : ∃ t, execWord 0x50000000#32 ready = .next t ∧ rspDout t.rsp ≠ 0x00#8 :=
  ⟨_, rfl, by decide +kernel⟩

theorem witness_FailuresWriteNothing : State.reset.state = keyed.state ∧
    (∃ t, execWord 0x30000000#32 State.reset = .next t ∧ rspCode t.rsp ≠ 0#3) ∧
    ∃ t', execWord 0x30000000#32 keyed = .next t' := ⟨rfl, ⟨_, rfl, by decide +kernel⟩, ⟨_, rfl⟩⟩

theorem witness_StateMachineFollowsTable : (∃ t, execWord 0x60000000#32 ready = .next t) ∧
    (∃ t, execWord 0x30000100#32 keyed = .next t) ∧ ∃ t, execWord 0x40000000#32 State.reset = .next t := by
  refine ⟨⟨_, rfl⟩, ?_, ⟨_, rfl⟩⟩
  obtain ⟨t, ht, -⟩ := keyed_init 256#9 (by decide) keyed (keyed_loaded _)
  exact ⟨t, (execWord_ok (i := .init 256#9) (by decide) keyed).trans ht⟩

theorem witness_EveryWordHasItsOutcome : decode 0x00000000#32 = .ok .nop ∧
    decode 0x70000000#32 = .error (.reservedOpcode 7) := by decide

theorem witness_CommandsWriteOnlyTheirState : (∃ t, exec .nop ready = .next t) ∧ (∃ t, exec (.keyb 5 0) ready = .next t) ∧
    (∃ t, exec (.setdrop 3) ready = .next t) ∧ (∃ t, exec (.init 256) keyed = .next t) ∧
    (∃ t, exec (.drop 1) ready = .next t) ∧ ∃ t, exec (.xform 0x50) ready = .next t := by
  refine ⟨⟨_, rfl⟩, ⟨_, rfl⟩, ⟨_, rfl⟩, ?_, ⟨_, rfl⟩, ⟨_, rfl⟩⟩
  obtain ⟨t, ht, -⟩ := keyed_init 256#9 (by decide) keyed (keyed_loaded _)
  exact ⟨t, ht⟩

theorem witness_IdempotentCommands : (∃ t, exec (.setdrop 3) ready = .next t) ∧
    (ready.state = .ready ∧ ∃ t, exec (.xform 0) ready = .next t) ∧
    ((1#28).toNat % 256 ≠ 0 ∧ ∃ t, exec (.drop 1) ready = .next t) ∧
    (257#28).toNat % 256 ≠ 0 ∧ ∃ t, exec (.drop 257) ready = .next t :=
  ⟨⟨_, rfl⟩, ⟨rfl, _, rfl⟩, ⟨by decide, _, rfl⟩, by decide, _, rfl⟩

theorem ready_isPermutation : IsPermutation ready.cipher.S := isPermutation_identityTable

theorem witness_StepKeepsPermutation :
    let s := atPins ready ⟨false, true, 0x50000000#32, false⟩
    PermutationInv s ∧ ∃ t, step s = .next t ∧ t.state = .ready := ⟨fun _ => ready_isPermutation, _, rfl, rfl⟩

theorem witness_InitEstablishesPermutation : LegalKeyLength 256#9 ∧ KeyLoaded keyedOther (256#9).toNat :=
  ⟨by decide, keyedOther_loaded _⟩

theorem witness_StepKeepsResponseFormat :
    let s := atPins answering ⟨false, false, 0#32, true⟩
    ResponseInv s ∧ ∃ t, step s = .next t :=
  ⟨⟨by decide +kernel, by simp [atPins, answering, ready, running, State.reset]⟩, _, rfl⟩

theorem witness_StepKeepsHandshake :
    let s := atPins answering ⟨false, false, 0#32, true⟩
    HandshakeInv s ∧ ∃ t, step s = .next t := ⟨⟨fun _ => rfl, fun _ => rfl⟩, _, rfl⟩

/-- A word offered for the first time, and one held from the edge before. -/
theorem witness_StepRunsOfferedWord :
    let p : Pins := ⟨false, true, 0x50000000#32, true⟩
    let s := atPins ready p
    let s' : State := { s with held := some 0x50000000#32 }
    (s.inputs = p :: [] ∧ p.rst = false ∧ p.cmdValid = true ∧ s.busy = false ∧ s.held = none) ∧
      s'.inputs = p :: [] ∧ s'.busy = false ∧ s'.held = some p.cmdData ∧ decode p.cmdData = .ok (.xform 0) ∧
      decode 0x60000000#32 = .error (.reservedOpcode 6) :=
  ⟨⟨rfl, rfl, rfl, rfl, rfl⟩, rfl, rfl, rfl, by decide, by decide⟩

theorem witness_PlacedWordRunsNext : decodeTableWord 32 0x1000FFFF = some (.keyb 255 255) ∧
    decodeTableWord 32 0 = some .nop := by decide

/-- A response not offered yet, one not taken, one taken; a word offered for the first time, and one held. -/
theorem witness_HandshakeDeliversResponse :
    let s := atPins running ⟨false, true, 5#32, false⟩
    let s₁ := { atPins answering ⟨false, true, 5#32, false⟩ with held := some 5#32 }
    let s₂ := atPins answering ⟨false, false, 0#32, true⟩
    (s.busy = true ∧ s.pins.rst = false ∧ s.held = none ∧ s.rspValid = false) ∧
      (s₁.busy = true ∧ s₁.pins.rst = false ∧ s₁.held = s₁.pins.offered ∧ s₁.rspValid = true ∧
        s₁.pins.rspReady = false) ∧
      s₂.busy = true ∧ s₂.pins.rst = false ∧ s₂.held = none ∧ s₂.rspValid = true ∧ s₂.pins.rspReady = true := by
  refine ⟨⟨rfl, rfl, rfl, rfl⟩, ⟨rfl, rfl, rfl, rfl, rfl⟩, rfl, rfl, rfl, rfl, rfl⟩

/-- A held word changed, and a held word withdrawn. -/
theorem witness_OnlyBrokenHoldIsRefused :
    step { atPins running ⟨false, true, 6#32, false⟩ with held := some 5#32 } = .refused .commandNotHeld ∧
    step { atPins running ⟨false, false, 5#32, false⟩ with held := some 5#32 } = .refused .commandNotHeld := ⟨rfl, rfl⟩

theorem witness_HandshakeRefinesTransaction : Idle ready ∧ (∃ t, execWord 0x50000000#32 ready = .next t) ∧
    Idle oneKeyByte ∧ execWord 0x30000002#32 oneKeyByte = .fault (.unwrittenKeyByte 1#8) :=
  ⟨⟨rfl, rfl, rfl⟩, ⟨_, rfl⟩, ⟨rfl, rfl, rfl⟩, rfl⟩

theorem witness_ConstructionIsDeterministic : LegalKeyLength 256#9 ∧ SameKey keyed keyedOther (256#9).toNat ∧
    keyed.dropN = keyedOther.dropN ∧ (∃ t, exec (.init 256) keyed = .next t) ∧
    ∃ t', exec (.init 256) keyedOther = .next t' := by
  obtain ⟨t, ht, -⟩ := keyed_init 256#9 (by decide) keyed (keyed_loaded _)
  obtain ⟨t', ht', -⟩ := keyed_init 256#9 (by decide) keyedOther (keyedOther_loaded _)
  exact ⟨by decide, fun _ _ => rfl, rfl, ⟨t, ht⟩, t', ht'⟩

theorem witness_ConstructCommandsBuildEngine :
    (1 ≤ [0x4B#8].length ∧ [0x4B#8].length ≤ 256 ∧
      [Instr.keyb 0 0x4B, .setdrop 3].Perm (.setdrop 3 :: keyCommands [0x4B#8])) ∧
    (1 ≤ (List.replicate 256 0xFF#8).length ∧ (List.replicate 256 0xFF#8).length ≤ 256) ∧
    (257 ≤ 257 ∧ 257 ≤ 511) ∧ 257 ≤ 511 ∧ 511 ≤ 511 :=
  ⟨⟨by decide, by decide, by decide⟩, ⟨by rw [List.length_replicate]; decide, by rw [List.length_replicate]⟩, by decide,
    by decide⟩

theorem witness_StreamingEquivalence : ready.state = .ready ∧
    ∃ t u ra rb, transact (transformWords [0x01#8]) ready = .next (t, ra) ∧
      transact (transformWords [0x02#8, 0x03#8]) t = .next (u, rb) := ⟨rfl, _, _, _, _, rfl, rfl⟩

theorem witness_RoundTripRestoresPlaintext : LegalKeyLength 1#9 ∧ KeyLoaded keyed (1#9).toNat ∧
    KeyLoaded keyedOther (1#9).toNat ∧ SameKey keyed keyedOther (1#9).toNat ∧ keyed.dropN = keyedOther.dropN :=
  ⟨by decide, keyed_loaded _, keyedOther_loaded _, fun _ _ => rfl, rfl⟩

theorem witness_DropsCompose : ready.state = .ready ∧ (0xFFFFFFF#28).toNat + (0#28).toNat < 2 ^ 28 ∧
    [0x01#8, 0x02#8].length = (2#28).toNat ∧ LegalKeyLength 256#9 ∧ KeyLoaded keyed (256#9).toNat ∧
    (3072#28).toNat + (3#28).toNat < 2 ^ 28 :=
  ⟨rfl, by decide, by decide, by decide, keyed_loaded _, by decide⟩

/-- A KEYB, a SETDROP, a DROP, an XFORM and an illegal word. -/
theorem witness_StagedValuesWaitForInit : ready.state = .ready ∧ readyStaged.state = .ready ∧
    ready.cipher = readyStaged.cipher ∧
    ∀ w ∈ [0x1000054B#32, 0x20000003#32, 0x40000001#32, 0x50000000#32, 0x60000000#32], ∀ klen,
      decode w ≠ .ok (.init klen) := by
  have h1 : decode 0x1000054B#32 = .ok (.keyb 5 0x4B) := by decide
  have h2 : decode 0x20000003#32 = .ok (.setdrop 3) := by decide
  have h3 : decode 0x40000001#32 = .ok (.drop 1) := by decide
  have h4 : decode 0x50000000#32 = .ok (.xform 0) := by decide
  have h5 : decode 0x60000000#32 = .error (.reservedOpcode 6) := by decide
  refine ⟨rfl, rfl, rfl, fun w hw klen h => ?_⟩
  rcases List.mem_cons.1 hw with rfl | hw
  · rw [h1] at h; cases h
  rcases List.mem_cons.1 hw with rfl | hw
  · rw [h2] at h; cases h
  rcases List.mem_cons.1 hw with rfl | hw
  · rw [h3] at h; cases h
  rcases List.mem_cons.1 hw with rfl | hw
  · rw [h4] at h; cases h
  rcases List.mem_cons.1 hw with rfl | hw
  · rw [h5] at h; cases h
  · cases hw

theorem witness_StagedKeyRunsSafely : KeyLoaded keyed 256 ∧ ¬ RunsSafely [0x30000002#32] oneKeyByte ∧
    (∃ t rs, transact [0x50000000#32] oneKeyByte = .next (t, rs)) ∧ oneKeyByte.keyByteWritten 0 = true := by
  refine ⟨keyed_loaded _, ?_, ⟨_, _, rfl⟩, by decide +kernel⟩
  rintro ⟨t, rs, h⟩
  have : transact [0x30000002#32] oneKeyByte = .fault (.unwrittenKeyByte 1#8) := rfl
  rw [this] at h
  cases h

theorem witness_InstancesAreIndependent :
    let p : Platform 2 := Platform.reset 2
    ∃ q r, p.stepAt 0 = .next q ∧ (1 : Fin 2) ≠ 0 ∧ q.stepAt 1 = .next r := by
  refine ⟨Platform.reset 2, Platform.reset 2, rfl, by decide, rfl⟩

theorem witness_AssemblerWritesTable : assembleWord ⟨.keyb, [2, 121]⟩ = some 0x10000279#32 ∧
    assembleWord ⟨.init, [511]⟩ = some 0x300001FF#32 ∧ assembleWord ⟨.init, [512]⟩ = none := by decide

theorem witness_PseudoCommandsExpand : (List.replicate 256 0x07#8).length ≤ 256 ∧
    assembleAll (construct [0x4B, 0x65, 0x79] (some 0)) =
      some [0x1000004B#32, 0x10000165#32, 0x10000279#32, 0x20000000#32, 0x30000003#32] :=
  ⟨by rw [List.length_replicate], by decide⟩

theorem witness_DisassemblyReassembles : decode 0x2FFFFFFF#32 = .ok (.setdrop 268435455) ∧
    decode 0xFFFFFFFF#32 = .error (.reservedOpcode 15) := by decide

end Sys2Proof.Tests
end

section
/-! PROOF. Every latency is at least one cycle (spec 00_scope.md R7, 70_reset_and_hazards.md R113). Each parameter is a
free number plus one, so it is positive whatever the free number is. -/

namespace Sys2Proof

theorem Config.latNop_pos : 0 < Config.latNop := Nat.succ_pos _
theorem Config.latKeyb_pos : 0 < Config.latKeyb := Nat.succ_pos _
theorem Config.latSetdrop_pos : 0 < Config.latSetdrop := Nat.succ_pos _
theorem Config.latInit_pos (keyLength dropCount : Nat) : 0 < Config.latInit keyLength dropCount := Nat.succ_pos _
theorem Config.latDrop_pos (n : Nat) : 0 < Config.latDrop n := Nat.succ_pos _
theorem Config.latXform_pos : 0 < Config.latXform := Nat.succ_pos _
theorem Config.latIllegal_pos : 0 < Config.latIllegal := Nat.succ_pos _

end Sys2Proof

namespace Sys2Proof.Machine

/-- One case for each command the word may decode to, and one for the illegal word (log 10). -/
theorem latencyOf_pos (w : Word32) (dropN : Count) : 0 < latencyOf w dropN := by
  unfold latencyOf
  split
  · exact Config.latNop_pos
  · exact Config.latKeyb_pos
  · exact Config.latSetdrop_pos
  · exact Config.latInit_pos _ _
  · exact Config.latDrop_pos _
  · exact Config.latXform_pos
  · exact Config.latIllegal_pos

/-- Settles O34: it holds, by the positivity of each latency parameter. -/
theorem latenciesAtLeastOne : Obligations.LatenciesAtLeastOne := latencyOf_pos

end Sys2Proof.Machine
end

section
/-! PROOF. Executed words: what their responses look like, what every command leaves unchanged, and which key bytes they
meet (spec 10_state.md R22, R25 to R27; 42_control.md R79, R82). -/

namespace Sys2Proof.Machine

@[simp] theorem State.keyByteWritten_respond (s : State) (c : Status) (d a : Byte) :
    (s.respond c d).keyByteWritten a = s.keyByteWritten a := rfl
@[simp] theorem State.keyByteWritten_withCipher (s : State) (c : Cipher) (a : Byte) :
    (s.withCipher c).keyByteWritten a = s.keyByteWritten a := rfl
@[simp] theorem State.keyByteWritten_withPhase (s : State) (p : Phase) (a : Byte) :
    (s.withPhase p).keyByteWritten a = s.keyByteWritten a := rfl
@[simp] theorem State.keyByteWritten_withDropN (s : State) (n : Count) (a : Byte) :
    (s.withDropN n).keyByteWritten a = s.keyByteWritten a := rfl

/-- The list of what a word can do, for a word that answers a next state. -/
theorem wordEffect_of_next {w : Word32} {s t : State} (h : execWord w s = .next t) : WordEffect w s (.next t) :=
  h ▸ execWord_effect w s

theorem execWord_ne_refused (w : Word32) (s : State) (r : Refusal) : execWord w s ≠ .refused r := fun h => by
  have effect : WordEffect w s (.refused r) := h ▸ execWord_effect w s
  cases effect

/-- A word stops the machine in one way only: as a legal INIT that meets an unwritten byte of its key (R22). -/
theorem execWord_next_or_unwritten (w : Word32) (s : State) :
    (∃ t, execWord w s = .next t) ∨
      ∃ klen a, decode w = .ok (.init klen) ∧ LegalKeyLength klen ∧ a.toNat < klen.toNat ∧
        s.keyByteWritten a = false ∧ execWord w s = .fault (.unwrittenKeyByte a) := by
  cases ho : execWord w s with
  | next t => exact .inl ⟨t, rfl⟩
  | refused r => exact absurd ho (execWord_ne_refused w s r)
  | fault r =>
    have effect : WordEffect w s (.fault r) := ho ▸ execWord_effect w s
    cases effect with
    | initUnwritten klen a hd hl ha hw => exact .inr ⟨klen, a, hd, hl, ha, hw, rfl⟩

/-- Every command ends with `respond` (R82), after updates that leave the handshake alone; its `DOUT` is 0x00 but for an
XFORM that completes. -/
theorem execWord_responds {w : Word32} {s t : State} (h : execWord w s = .next t) :
    ∃ (u : State) (c : Status) (d : Byte), t = u.respond c d ∧ SameHandshake s u ∧
      (d ≠ 0x00#8 → c = .ok ∧ ∃ din, decode w = .ok (.xform din)) := by
  cases wordEffect_of_next h with
  | xform din hd hs => exact ⟨_, _, _, rfl, by simp [SameHandshake], fun _ => ⟨rfl, din, hd⟩⟩
  | _ => exact ⟨_, _, _, rfl, by simp [SameHandshake], by simp⟩

theorem execWord_sameHandshake {w : Word32} {s t : State} (h : execWord w s = .next t) : SameHandshake s t := by
  obtain ⟨u, c, d, rfl, hu, -⟩ := execWord_responds h
  exact hu

theorem Status.code_le (c : Status) : c.code ≤ 3#3 := by cases c <;> decide

/-- Settles O20: every response is put together by `respond`, and its fields are read back. -/
theorem responsesAreAssembled : Obligations.ResponsesAreAssembled := by
  intro w s t h
  obtain ⟨u, c, d, rfl, -, hd⟩ := execWord_responds h
  obtain ⟨hres, hrdy, hcode, hdout⟩ := responseWord_fields u.state c d
  simp only [State.respond_rsp, State.respond_state, hres, hrdy, hcode, hdout]
  refine ⟨trivial, trivial, c.code_le, fun hne => ?_⟩
  obtain ⟨rfl, hx⟩ := hd hne
  exact ⟨rfl, hx⟩

/-- The answers of INIT that are next states. -/
theorem execInit_next {klen : KeyLen} {s t : State} (h : execInit klen s = .next t) :
    t = s.respond .invalidKeyLength 0x00#8 ∨
      ∃ c, t = ((s.withCipher c).withPhase .ready).respond .ok 0x00#8 := by
  obtain ⟨-, e⟩ | ⟨-, a, -, -, e⟩ | ⟨-, -, e⟩ := execInit_cases klen s <;> rw [e] at h <;> cases h
  · exact .inl rfl
  · exact .inr ⟨_, rfl⟩

/-- The answers of DROP. -/
theorem execDrop_next {cnt : Count} {s t : State} (h : execDrop cnt s = .next t) :
    t = s.respond .notReady 0x00#8 ∨ ∃ c d, t = (s.withCipher c).respond .ok d := by
  obtain hs | hs := s.state.uninitialized_or_ready
  · rw [execDrop_uninitialized hs] at h; cases h; exact .inl rfl
  · rw [execDrop_ready hs] at h; cases h; exact .inr ⟨_, _, rfl⟩

/-- The answers of XFORM. -/
theorem execXform_next {din : Byte} {s t : State} (h : execXform din s = .next t) :
    t = s.respond .notReady 0x00#8 ∨ ∃ c d, t = (s.withCipher c).respond .ok d := by
  obtain hs | hs := s.state.uninitialized_or_ready
  · rw [execXform_uninitialized hs] at h; cases h; exact .inl rfl
  · rw [execXform_ready hs] at h; cases h; exact .inr ⟨_, _, rfl⟩

/-- Settles O24: each command's answer is `s` with the fields of its row of the access table updated, and a response. -/
theorem commandsWriteOnlyTheirState : Obligations.CommandsWriteOnlyTheirState := by
  intro i s t h
  cases i with
  | nop => cases (h : execNop s = .next t); simp [SameHandshake]
  | keyb idx kdata =>
    cases (h : execKeyb idx kdata s = .next t)
    refine ⟨by simp [SameHandshake], fun hne => absurd rfl (hne idx kdata), ?_, by simp, by simp, by simp⟩
    rintro _ _ ⟨⟩ a ha
    simp [tableRead_tableWrite, keyByteWritten_withKeyByte, ha]
  | setdrop cnt => cases (h : execSetdrop cnt s = .next t); simp [SameHandshake]
  | init klen => obtain rfl | ⟨c, rfl⟩ := execInit_next h <;> simp [SameHandshake]
  | drop cnt => obtain rfl | ⟨c, d, rfl⟩ := execDrop_next h <;> simp [SameHandshake]
  | xform din => obtain rfl | ⟨c, d, rfl⟩ := execXform_next h <;> simp [SameHandshake]

/-- No command clears a `KW[a]` (R22). -/
theorem execWord_keeps_written {w : Word32} {s t : State} (h : execWord w s = .next t) {a : Byte}
    (ha : s.keyByteWritten a = true) : t.keyByteWritten a = true := by
  cases wordEffect_of_next h with
  | keyb idx kdata hd => simp [keyByteWritten_withKeyByte, ha]
  | _ => exact ha

end Sys2Proof.Machine
end

section
/-! PROOF. Runs of words (spec 70_reset_and_hazards.md R110): a run's first command split off, and what makes a run stop. -/

namespace Sys2Proof.Machine

theorem transact_cons_eq_next {w : Word32} {ws : List Word32} {s u : State} {rs : List Word16} :
    transact (w :: ws) s = .next (u, rs) ↔
      ∃ t rs', execWord w s = .next t ∧ transact ws t = .next (u, rs') ∧ rs = t.rsp :: rs' := by
  simp only [transact]
  cases execWord w s with
  | next t =>
    cases ht : transact ws t with
    | next x => obtain ⟨v, rs'⟩ := x; simp [ht, eq_comm]
    | _ => simp [ht]
  | _ => simp

theorem transact_cons_eq_fault {w : Word32} {ws : List Word32} {s : State} {r : Fault} :
    transact (w :: ws) s = .fault r ↔
      execWord w s = .fault r ∨ ∃ t, execWord w s = .next t ∧ transact ws t = .fault r := by
  simp only [transact]
  cases execWord w s with
  | next t => cases ht : transact ws t <;> simp [ht]
  | _ => simp

theorem runsSafely_nil (s : State) : RunsSafely [] s := ⟨s, [], rfl⟩

theorem runsSafely_cons {w : Word32} {ws : List Word32} {s t : State} (h : execWord w s = .next t) :
    RunsSafely (w :: ws) s ↔ RunsSafely ws t := by
  simp [RunsSafely, transact_cons_eq_next, h]

theorem transact_keeps_written (ws : List Word32) {s t : State} {rs : List Word16} (h : transact ws s = .next (t, rs))
    {a : Byte} (ha : s.keyByteWritten a = true) : t.keyByteWritten a = true := by
  induction ws generalizing s rs with
  | nil => cases h; exact ha
  | cons w ws ih =>
    obtain ⟨u, rs', hw, hws, -⟩ := transact_cons_eq_next.1 h
    exact ih hws (execWord_keeps_written hw ha)

/-- A run that stops has an INIT that met a byte unwritten then, so unwritten at the start too. -/
theorem exists_unwritten_of_not_runsSafely {ws : List Word32} {s : State} (h : ¬ RunsSafely ws s) :
    ∃ w ∈ ws, ∃ klen a, decode w = .ok (.init klen) ∧ LegalKeyLength klen ∧ a.toNat < klen.toNat ∧
      s.keyByteWritten a = false := by
  induction ws generalizing s with
  | nil => exact absurd (runsSafely_nil s) h
  | cons w ws ih =>
    obtain ⟨t, hw⟩ | ⟨klen, a, hd, hl, ha, hkw, -⟩ := execWord_next_or_unwritten w s
    · obtain ⟨w', hmem, klen, a, hd, hl, ha, hkw⟩ := ih (fun safe => h ((runsSafely_cons hw).2 safe))
      have hs : s.keyByteWritten a = false := by
        by_contra hne
        rw [execWord_keeps_written hw (Bool.eq_true_of_not_eq_false hne)] at hkw
        cases hkw
      exact ⟨w', List.mem_cons_of_mem w hmem, klen, a, hd, hl, ha, hs⟩
    · exact ⟨w, List.mem_cons_self, klen, a, hd, hl, ha, hkw⟩

/-- Settles O43: a run stops only at a byte unwritten from its start on, and a written key has none. -/
theorem stagedKeyRunsSafely : Obligations.StagedKeyRunsSafely := by
  refine ⟨fun ws s hk => ?_, fun ws s => exists_unwritten_of_not_runsSafely,
    fun ws s t rs h a => transact_keeps_written ws h⟩
  by_contra hstop
  obtain ⟨-, -, -, a, -, -, -, hw⟩ := exists_unwritten_of_not_runsSafely hstop
  rw [hk a a.isLt] at hw
  cases hw

end Sys2Proof.Machine
end

section
/-! PROOF. What no command observes (spec 10_state.md R28; 93_implementation_defined.md U1, U3): two engines that agree on
`STATE`, `KW`, `DROPN`, the written key bytes and, once `Ready`, on `S`, `I` and `J` answer every word alike and still agree
after it. -/

namespace Sys2Proof.Machine

/-- The engines agree on all that a command can observe. -/
structure ObservablyEqual (s u : State) : Prop where
  state : u.state = s.state
  written : u.KW = s.KW
  dropN : u.dropN = s.dropN
  key : ∀ a, s.keyByteWritten a = true → tableRead u.K a = tableRead s.K a
  cipher : s.state = .ready → u.cipher = s.cipher

/-- Two outcomes alike: the same response in states that agree, or the same fault. -/
inductive OutcomesAgree : Host.Outcome State Fault Refusal → Host.Outcome State Fault Refusal → Prop
  | next {t v : State} (hrsp : v.rsp = t.rsp) (hobs : ObservablyEqual t v) : OutcomesAgree (.next t) (.next v)
  | fault (r : Fault) : OutcomesAgree (.fault r) (.fault r)

namespace ObservablyEqual

variable {s u : State} (h : ObservablyEqual s u)
include h

theorem respond_agree (c : Status) (d : Byte) : OutcomesAgree (.next (s.respond c d)) (.next (u.respond c d)) :=
  .next (by simp [h.state]) ⟨h.state, h.written, h.dropN, h.key, h.cipher⟩

theorem withDropN (n : Count) : ObservablyEqual (s.withDropN n) (u.withDropN n) :=
  ⟨h.state, h.written, rfl, h.key, h.cipher⟩

theorem withKeyByte (a v : Byte) : ObservablyEqual (s.withKeyByte a v) (u.withKeyByte a v) where
  state := h.state
  written := by simp [h.written]
  dropN := h.dropN
  key x hx := by
    rw [keyByteWritten_withKeyByte, Bool.or_eq_true, beq_iff_eq] at hx
    simp only [State.withKeyByte_K, tableRead_tableWrite]
    split_ifs with hxa
    · rfl
    · exact h.key x (hx.resolve_left hxa)
  cipher := h.cipher

theorem withCipher (c : Cipher) : ObservablyEqual (s.withCipher c) (u.withCipher c) :=
  ⟨h.state, h.written, h.dropN, h.key, fun _ => rfl⟩

theorem withCipher_withPhase (c : Cipher) (p : Phase) :
    ObservablyEqual ((s.withCipher c).withPhase p) ((u.withCipher c).withPhase p) :=
  ⟨rfl, h.written, h.dropN, h.key, fun _ => rfl⟩

/-- The scan for an unwritten key byte reads `KW` alone. -/
theorem firstUnwrittenKeyByte_eq (L : Nat) : u.firstUnwrittenKeyByte L = s.firstUnwrittenKeyByte L := by
  simp only [State.firstUnwrittenKeyByte, State.keyByteWritten, h.written]

/-- A construction reads the first `L` key bytes alone. -/
theorem constructCipher_eq {L : Nat} (hL : 1 ≤ L) (hM : L ≤ 256) (hk : KeyLoaded s L) (d : Nat) :
    constructCipher u.K L d = constructCipher s.K L d := by
  rw [constructCipher, constructCipher, keySchedule, keySchedule,
    ksaAfter_congr hL hM (fun a ha => h.key a (hk a ha))]

theorem execInit_agree (klen : KeyLen) : OutcomesAgree (execInit klen s) (execInit klen u) := by
  by_cases hl : LegalKeyLength klen
  · rw [execInit_legal hl, execInit_legal hl, h.firstUnwrittenKeyByte_eq]
    cases hf : s.firstUnwrittenKeyByte klen.toNat with
    | some a => exact .fault _
    | none =>
      have hk : KeyLoaded s klen.toNat := (firstUnwrittenKeyByte_eq_none hl.2).1 hf
      rw [h.constructCipher_eq hl.1 hl.2 hk, h.dropN]
      exact (h.withCipher_withPhase _ _).respond_agree _ _
  · rw [execInit_illegal hl, execInit_illegal hl]
    exact h.respond_agree _ _

theorem execDrop_agree (cnt : Count) : OutcomesAgree (execDrop cnt s) (execDrop cnt u) := by
  obtain hs | hs := s.state.uninitialized_or_ready
  · rw [execDrop_uninitialized hs, execDrop_uninitialized (h.state.trans hs)]
    exact h.respond_agree _ _
  · rw [execDrop_ready hs, execDrop_ready (h.state.trans hs), h.cipher hs]
    exact (h.withCipher _).respond_agree _ _

theorem execXform_agree (din : Byte) : OutcomesAgree (execXform din s) (execXform din u) := by
  obtain hs | hs := s.state.uninitialized_or_ready
  · rw [execXform_uninitialized hs, execXform_uninitialized (h.state.trans hs)]
    exact h.respond_agree _ _
  · rw [execXform_ready hs, execXform_ready (h.state.trans hs), h.cipher hs]
    exact (h.withCipher _).respond_agree _ _

theorem execWord_agree (w : Word32) : OutcomesAgree (execWord w s) (execWord w u) := by
  cases hd : decode w with
  | error e =>
    rw [execWord_error hd, execWord_error hd]
    exact h.respond_agree _ _
  | ok i =>
    rw [execWord_ok hd, execWord_ok hd]
    cases i with
    | nop => exact h.respond_agree _ _
    | keyb idx kdata => exact (h.withKeyByte idx kdata).respond_agree _ _
    | setdrop cnt => exact (h.withDropN cnt).respond_agree _ _
    | init klen => exact h.execInit_agree klen
    | drop cnt => exact h.execDrop_agree cnt
    | xform din => exact h.execXform_agree din

theorem execWord_next {w : Word32} {t : State} (ht : execWord w s = .next t) :
    ∃ v, execWord w u = .next v ∧ v.rsp = t.rsp ∧ ObservablyEqual t v := by
  have agree := h.execWord_agree w
  rw [ht] at agree
  generalize execWord w u = o at agree ⊢
  cases agree with
  | next hrsp hobs => exact ⟨_, rfl, hrsp, hobs⟩

theorem execWord_fault {w : Word32} {r : Fault} (hr : execWord w s = .fault r) :
    execWord w u = .fault r := by
  have agree := h.execWord_agree w
  rw [hr] at agree
  generalize execWord w u = o at agree ⊢
  cases agree with
  | fault => rfl

theorem transact_next (ws : List Word32) {t : State} {rs : List Word16} (ht : transact ws s = .next (t, rs)) :
    ∃ v, transact ws u = .next (v, rs) ∧ ObservablyEqual t v := by
  induction ws generalizing s u rs with
  | nil => cases ht; exact ⟨u, rfl, h⟩
  | cons w ws ih =>
    obtain ⟨s', rs', hs', hws, rfl⟩ := transact_cons_eq_next.1 ht
    obtain ⟨u', hu', hrsp, h'⟩ := h.execWord_next hs'
    obtain ⟨v, hv, hobs⟩ := ih h' hws
    exact ⟨v, transact_cons_eq_next.2 ⟨u', rs', hu', hv, by rw [hrsp]⟩, hobs⟩

theorem transact_fault (ws : List Word32) {r : Fault} (hr : transact ws s = .fault r) : transact ws u = .fault r := by
  induction ws generalizing s u with
  | nil => cases hr
  | cons w ws ih =>
    obtain hw | ⟨s', hs', hws⟩ := transact_cons_eq_fault.1 hr
    · exact transact_cons_eq_fault.2 (.inl (h.execWord_fault hw))
    · obtain ⟨u', hu', -, h'⟩ := h.execWord_next hs'
      exact transact_cons_eq_fault.2 (.inr ⟨u', hu', ih h' hws⟩)

end ObservablyEqual

/-- An `Uninitialized` engine with other `S`, `I`, `J` and other unwritten key bytes looks the same. -/
theorem observablyEqual_of_uninitialized {s : State} (c : Cipher) {k : Table} (hs : s.state = .uninitialized)
    (hk : ∀ a, s.keyByteWritten a = true → tableRead k a = tableRead s.K a) :
    ObservablyEqual s { s with cipher := c, K := k } where
  state := rfl
  written := rfl
  dropN := rfl
  key := hk
  cipher hr := by rw [hs] at hr; cases hr

/-- Settles O2, by the relation `ObservablyEqual`, which holds at the start and is kept by every word. -/
theorem unspecifiedContentsUnobservable : Obligations.UnspecifiedContentsUnobservable := by
  intro s c k ws hs hk
  have h := observablyEqual_of_uninitialized c hs hk
  refine ⟨fun t rs ht => ?_, fun r => h.transact_fault ws⟩
  obtain ⟨v, hv, hobs⟩ := h.transact_next ws ht
  exact ⟨v, hv, hobs.state, hobs.cipher⟩

end Sys2Proof.Machine
end

section
/-! PROOF. The step (spec 10_state.md R23 to R29; 93_implementation_defined.md U5, U8): what it does at each kind of edge,
and the three invariants it keeps. -/

namespace Sys2Proof.Machine

theorem State.breaksHold_eq_false_iff (s : State) (p : Pins) :
    s.breaksHold p = false ↔ s.held = none ∨ s.held = p.offered := by
  unfold State.breaksHold
  cases s.held <;> simp [eq_comm (a := p.offered)]

/-- An edge that transfers a command. -/
theorem State.edge_accepts {s : State} {p : Pins} (hr : p.rst = false) (hh : s.held = none ∨ s.held = p.offered)
    (hb : s.busy = false) (hv : p.cmdValid = true) : s.edge p = execWord p.cmdData (s.accept p.cmdData) := by
  simp [State.edge, State.commandEdge, hr, (s.breaksHold_eq_false_iff p).2 hh, hb, hv]

/-- An edge at which the engine is busy. -/
theorem State.edge_busy {s : State} {p : Pins} (hr : p.rst = false) (hh : s.held = none ∨ s.held = p.offered)
    (hb : s.busy = true) : s.edge p = .next (s.responseEdge p) := by
  simp [State.edge, hr, (s.breaksHold_eq_false_iff p).2 hh, hb]

/-- The four kinds of step that answer a next state; each invariant's proof splits on them. -/
theorem step_next_cases {s t : State} (h : step s = .next t) :
    t = s.consumeInput.resetEdge ∨
    (s.busy = true ∧ t = s.consumeInput.responseEdge s.pins) ∨
    execWord s.pins.cmdData (s.consumeInput.accept s.pins.cmdData) = .next t ∨
    t = s.consumeInput := by
  unfold step at h
  obtain ⟨-, e⟩ | ⟨-, -, e⟩ | ⟨-, -, hb, e⟩ | ⟨-, -, -, -, e⟩ | ⟨-, -, -, -, e⟩ :=
    s.consumeInput.edge_cases s.pins <;> rw [e] at h
  · cases h; exact .inl rfl
  · cases h
  · cases h; exact .inr (.inl ⟨hb, rfl⟩)
  · exact .inr (.inr (.inl h))
  · cases h; exact .inr (.inr (.inr rfl))

/-- While the engine is busy its state stands still (log 9). -/
theorem State.responseEdge_sameEngine (s : State) (p : Pins) : SameEngine s (s.responseEdge p) := by
  obtain ⟨-, -, e⟩ | ⟨-, -, e⟩ | ⟨-, e⟩ := s.responseEdge_cases p <;> simp [e, SameEngine]

/-! ### The permutation invariant (R29) -/

theorem PermutationInv.of_sameEngine {s t : State} (h : PermutationInv s) (he : SameEngine s t) : PermutationInv t := by
  obtain ⟨hc, hs, -⟩ := he
  intro hr
  rw [hc]
  exact h (hs ▸ hr)

theorem isPermutation_constructCipher (K : Table) (L d : Nat) : IsPermutation (constructCipher K L d).S :=
  isPermutation_prgaSteps d (isPermutation_ksaAfter K L 256)

/-- INIT builds a permutation afresh; DROP and XFORM run PRGA steps on one; no other command writes `S` or `STATE`. -/
theorem execWord_keeps_permutationInv {w : Word32} {s t : State} (h : PermutationInv s) (ht : execWord w s = .next t) :
    PermutationInv t := by
  cases wordEffect_of_next ht with
  | initLoaded klen hd hl hk => exact fun _ => isPermutation_constructCipher _ _ _
  | drop cnt hd hs => exact fun _ => isPermutation_prgaSteps _ (h hs)
  | xform din hd hs => exact fun _ => isPermutation_prgaSteps 1 (h hs)
  | _ => exact h

/-- Settles O26: a reset edge leaves `Ready`, an edge of a busy or idle engine leaves `S` and `STATE` alone, and an accepted
word keeps the invariant. -/
theorem stepKeepsPermutation : Obligations.StepKeepsPermutation := by
  intro s t h ht
  obtain rfl | ⟨-, rfl⟩ | hw | rfl := step_next_cases ht
  · intro hr
    cases hr
  · exact h.of_sameEngine (s.consumeInput.responseEdge_sameEngine s.pins)
  · exact execWord_keeps_permutationInv (s := s.consumeInput.accept _) h hw
  · exact h

/-! ### The response format (R25, R26, U8) -/

/-- The format of every response a word answers. -/
theorem execWord_responseFormat {w : Word32} {s t : State} (h : execWord w s = .next t) : ResponseFormat t.rsp := by
  obtain ⟨hres, -, hcode, hdout⟩ := responsesAreAssembled w s t h
  refine ⟨hres, hcode, fun hne => ?_⟩
  by_contra hd
  exact hne (hdout hd).1

theorem State.responseEdge_keeps_responseInv {s : State} (h : ResponseInv s) (p : Pins) :
    ResponseInv (s.responseEdge p) := by
  obtain ⟨hheld, hdelivered⟩ := h
  obtain ⟨-, -, e⟩ | ⟨-, -, e⟩ | ⟨-, e⟩ := s.responseEdge_cases p <;> rw [e]
  · refine ⟨hheld, fun r hr => ?_⟩
    obtain hr | hr := List.mem_append.1 hr
    · exact hdelivered r hr
    · rw [List.mem_singleton.1 hr]
      exact hheld
  · exact ⟨hheld, hdelivered⟩
  · exact ⟨hheld, hdelivered⟩

/-- Settles O28: only an accepted word writes the response, and only a busy edge delivers one. -/
theorem stepKeepsResponseFormat : Obligations.StepKeepsResponseFormat := by
  intro s t h ht
  obtain rfl | ⟨-, rfl⟩ | hw | rfl := step_next_cases ht
  · exact h
  · exact State.responseEdge_keeps_responseInv (s := s.consumeInput) h s.pins
  · obtain ⟨-, -, -, -, -, -, hresponses, -⟩ := execWord_sameHandshake hw
    exact ⟨execWord_responseFormat hw, hresponses ▸ h.2⟩
  · exact h

/-! ### The handshake's invariant (R24, R25) -/

theorem State.responseEdge_keeps_handshakeInv {s : State} (h : HandshakeInv s) (hb : s.busy = true) (p : Pins) :
    HandshakeInv (s.responseEdge p) := by
  obtain ⟨-, -, e⟩ | ⟨-, -, e⟩ | ⟨-, e⟩ := s.responseEdge_cases p <;> rw [e]
  · exact ⟨fun hv => hv, fun hb' => h.2 hb⟩
  · exact h
  · exact ⟨fun _ => hb, h.2⟩

/-- Settles O29: an accepted word leaves `BUSY` 1 and a response that reports `STATE`; a busy edge changes neither `STATE`
nor the response, and offers one only while `BUSY` stays 1. -/
theorem stepKeepsHandshake : Obligations.StepKeepsHandshake := by
  intro s t h ht
  obtain rfl | ⟨hb, rfl⟩ | hw | rfl := step_next_cases ht
  · exact ⟨nofun, nofun⟩
  · exact State.responseEdge_keeps_handshakeInv (s := s.consumeInput) h hb s.pins
  · obtain ⟨hbusy, -⟩ := execWord_sameHandshake hw
    obtain ⟨-, hrdy, -⟩ := responsesAreAssembled _ _ t hw
    exact ⟨fun _ => hbusy, fun _ => hrdy⟩
  · exact h

/-! ### Reset (R28) -/

/-- Settles O1: the fields of the reset value, and `KW` false at each entry. -/
theorem resetLeavesStatedValues : Obligations.ResetLeavesStatedValues := by
  have hkw : ∀ a, State.reset.keyByteWritten a = false := fun a => by simp [State.keyByteWritten, State.reset]
  exact ⟨rfl, rfl, hkw, rfl, rfl, rfl, rfl⟩

/-- Settles O30: the reset state is `Uninitialized` and not busy, and it holds the response 0. -/
theorem invariantsHoldAtReset : Obligations.InvariantsHoldAtReset := by
  refine ⟨fun hr => ?_, ⟨by decide, fun r hr => ?_⟩, fun hv => ?_, fun hb => ?_⟩
  · cases hr
  · cases hr
  · cases hv
  · cases hb

/-! ### The handshake's edges (R24, U5) -/

/-- Settles O31: a fresh word, or one held from the edge before, breaks no hold, so an idle engine accepts it. -/
theorem stepRunsOfferedWord : Obligations.StepRunsOfferedWord := by
  intro s p rest hin hr hv hb hh accepted
  have hp : s.pins = p := by simp [State.pins, hin]
  have ho : p.offered = some p.cmdData := by simp [Pins.offered, hv]
  have ha : s.consumeInput.accept p.cmdData = accepted := by simp [State.consumeInput, State.accept, hin, accepted]
  have hstep : step s = execWord p.cmdData accepted := by
    rw [step, hp, State.edge_accepts (s := s.consumeInput) hr (by rw [ho]; exact hh) hb hv, ha]
  refine ⟨hstep, fun i hi => ?_, fun e he => ?_⟩
  · rw [hstep, execWord_ok hi]
  · rw [hstep, execWord_error he, execIllegal]

theorem decode_of_decodeTableWord {nbits w : Nat} {i : Instr} (h : decodeTableWord nbits w = some i) :
    decode (tableWord nbits w) = .ok i := by
  unfold decodeTableWord at h
  cases hd : decode (tableWord nbits w) with
  | error e => rw [hd] at h; cases h
  | ok j => rw [hd] at h; cases h; rfl

/-- Settles O32: `withFetchWord` leaves the engine idle and the word offered for the first time. -/
theorem placedWordRunsNext : Obligations.PlacedWordRunsNext := by
  intro s nbits w i hi
  obtain ⟨-, hok, -⟩ := stepRunsOfferedWord (s.withFetchWord nbits w) (Pins.offer (tableWord nbits w)) s.inputs
    rfl rfl rfl rfl (.inl rfl)
  exact hok i (decode_of_decodeTableWord hi)

/-- Settles O33: the step is the busy edge, in its three cases. -/
theorem handshakeDeliversResponse : Obligations.HandshakeDeliversResponse := by
  intro s hb hr hh
  have hstep : step s = .next (s.consumeInput.responseEdge s.pins) := State.edge_busy hr hh hb
  refine ⟨_, hstep, s.consumeInput.responseEdge_sameEngine s.pins, ?_⟩
  obtain ⟨hv, hready, e⟩ | ⟨hv, hready, e⟩ | ⟨hv, e⟩ := s.consumeInput.responseEdge_cases s.pins <;>
    rw [State.consumeInput_rspValid] at hv <;> rw [e]
  · simp [hv, hready, State.cmdReady]
  · simp [hv, hready, hb, State.rspData]
  · exact ⟨rfl, rfl, rfl, by simp [hv], by simp [hv], fun _ => ⟨hb, rfl, rfl, decide_eq_true_iff⟩⟩

/-- Settles O35: of the five kinds of edge, the broken hold alone refuses; no executed word does. -/
theorem onlyBrokenHoldIsRefused : Obligations.OnlyBrokenHoldIsRefused := by
  intro s r
  have hbreak := s.consumeInput.breaksHold_iff s.pins
  rw [State.consumeInput_held] at hbreak
  rw [← hbreak, step]
  obtain ⟨hr, e⟩ | ⟨hr, hh, e⟩ | ⟨-, hh, -, e⟩ | ⟨-, hh, -, -, e⟩ | ⟨-, hh, -, -, e⟩ :=
    s.consumeInput.edge_cases s.pins <;> rw [e]
  · simp [hr]
  · simp [hr, hh, eq_comm]
  · simp [hh]
  · simp [hh, execWord_ne_refused]
  · simp [hh]

end Sys2Proof.Machine
end

section
/-! PROOF. The byte-wide link (spec 20_memory.md R34; 93_implementation_defined.md Q4): a word is its four bytes, and
byte `p` of the word put together is the byte the link carries for place `p`. -/

namespace Sys2Proof

theorem word_ext_bytes {v w : Word32} (h : ∀ p : Fin 4, v.extractLsb' (8 * p.val) 8 = w.extractLsb' (8 * p.val) 8) :
    v = w := by
  ext i hi
  have hbyte := congrArg (fun b : Byte => b.getLsbD (i % 8)) (h ⟨i / 8, by omega⟩)
  simpa [BitVec.getLsbD_extractLsb', Nat.mod_lt, Nat.div_add_mod, BitVec.getLsbD_eq_getElem hi] using hbyte

theorem byte_wordOfLink (order : Equiv.Perm (Fin 4)) (bytes : Vector Byte 4) (p : Fin 4) :
    (wordOfLink order bytes).extractLsb' (8 * p.val) 8 = bytes[order.symm p] := by
  ext i hi
  fin_cases p <;> interval_cases i <;> simp [wordOfLink]

theorem linkOfWord_getElem (order : Equiv.Perm (Fin 4)) (w : Word32) (k : Fin 4) :
    (linkOfWord order w)[k] = w.extractLsb' (8 * (order k).val) 8 := by
  simp [linkOfWord]

/-- Settles O11: either way round, the byte of each place is the one sent, for `order` and `order.symm` cancel. -/
theorem linkCarriesWords : Obligations.LinkCarriesWords := by
  refine fun order w bytes => ⟨word_ext_bytes fun p => ?_, Vector.ext fun k hk => ?_⟩
  · rw [byte_wordOfLink, linkOfWord_getElem, Equiv.apply_symm_apply]
  · calc (linkOfWord order (wordOfLink order bytes))[k]
        = (wordOfLink order bytes).extractLsb' (8 * (order ⟨k, hk⟩).val) 8 := linkOfWord_getElem order _ ⟨k, hk⟩
      _ = bytes[order.symm (order ⟨k, hk⟩)] := byte_wordOfLink order bytes _
      _ = bytes[k] := by simp only [Equiv.symm_apply_apply]; rfl

end Sys2Proof
end

section
/-! PROOF. Idempotent commands (spec 20_memory.md R37; 41_keystream.md R73): a command that sets its state from its
operands sets it again to the same; a PRGA step moves `I`, and only a multiple of 256 steps brings it back. -/

namespace Sys2Proof.Machine

theorem tableWrite_tableWrite (t : Table) (a v : Byte) : tableWrite (tableWrite t a v) a v = tableWrite t a v := by
  simp [tableWrite]

/-- KEYB done again: the byte is the one it wrote, and the response is formed anew from the same `STATE`. -/
theorem execKeyb_again (idx kdata : Byte) (s : State) :
    execKeyb idx kdata ((s.withKeyByte idx kdata).respond .ok 0x00#8) = execKeyb idx kdata s := by
  simp [execKeyb, State.respond, State.withKeyByte, tableWrite_tableWrite]

/-- INIT done again reads the same key, which it does not write. -/
theorem execInit_again {klen : KeyLen} {s t : State} (h : execInit klen s = .next t) : execInit klen t = .next t := by
  obtain ⟨hl, e⟩ | ⟨-, a, -, -, e⟩ | ⟨hl, hk, e⟩ := execInit_cases klen s <;> rw [e] at h <;> cases h
  · exact execInit_illegal hl
  · exact execInit_loaded hl hk

theorem prgaSteps_I (n : Nat) (c : Cipher) : (prgaSteps n c).I = c.I + BitVec.ofNat 8 n := by
  induction n with
  | zero => simp [prgaSteps]
  | succ n ih =>
    rw [prgaSteps_succ, BitVec.ofNat_add, ← BitVec.add_assoc, ← ih]
    rfl

theorem prgaSteps_ne_self {n : Nat} (hn : n % 256 ≠ 0) (c : Cipher) : prgaSteps n c ≠ c := by
  intro h
  have hI : c.I + BitVec.ofNat 8 n = c.I := by rw [← prgaSteps_I, h]
  have hzero : BitVec.ofNat 8 n = 0#8 := by simpa using hI
  exact hn (congrArg BitVec.toNat hzero)

/-- Settles O25: command by command for the idempotent ones, and by the index `I` for XFORM (one step) and DROP. -/
theorem idempotentCommands : Obligations.IdempotentCommands := by
  refine ⟨fun i s t hdrop hxform h => ?_, fun din s t hs h => ?_, fun cnt s t hs hcnt h => ?_⟩
  · cases i with
    | nop => cases (h : execNop s = .next t); rfl
    | keyb idx kdata => cases (h : execKeyb idx kdata s = .next t); exact execKeyb_again idx kdata s
    | setdrop cnt => cases (h : execSetdrop cnt s = .next t); rfl
    | init klen => exact execInit_again h
    | drop cnt => exact absurd rfl (hdrop cnt)
    | xform din => exact absurd rfl (hxform din)
  · cases (execXform_ready hs).symm.trans h
    exact prgaSteps_ne_self (n := 1) (by decide) s.cipher
  · cases (execDrop_ready hs).symm.trans h
    exact prgaSteps_ne_self hcnt s.cipher

end Sys2Proof.Machine
end

section
/-! PROOF. Staged values (spec 20_memory.md R43; 70_reset_and_hazards.md R111): without an INIT, a `Ready` engine's
responses come from `S`, `I`, `J` and the words alone. -/

namespace Sys2Proof.Machine

/-- Both engines are `Ready` with the same `S`, `I`, `J`; what they have staged may differ. -/
structure SameKeystream (s u : State) : Prop where
  ready : s.state = .ready
  ready' : u.state = .ready
  cipher : s.cipher = u.cipher

namespace SameKeystream

variable {s u : State} (h : SameKeystream s u)
include h

theorem withKeyByte (a v : Byte) : SameKeystream (s.withKeyByte a v) (u.withKeyByte a v) :=
  ⟨h.ready, h.ready', h.cipher⟩

theorem withDropN (n : Count) : SameKeystream (s.withDropN n) (u.withDropN n) := ⟨h.ready, h.ready', h.cipher⟩

theorem withCipher (c : Cipher) : SameKeystream (s.withCipher c) (u.withCipher c) := ⟨h.ready, h.ready', rfl⟩

theorem respond_alike (c : Status) (d : Byte) :
    (s.respond c d).rsp = (u.respond c d).rsp ∧ SameKeystream (s.respond c d) (u.respond c d) :=
  ⟨by simp [h.ready, h.ready'], h.ready, h.ready', h.cipher⟩

theorem execWord_next {w : Word32} (hw : ∀ klen, decode w ≠ .ok (.init klen)) :
    ∃ t v, execWord w s = .next t ∧ execWord w u = .next v ∧ t.rsp = v.rsp ∧ SameKeystream t v := by
  cases hd : decode w with
  | error e => exact ⟨_, _, execWord_error hd s, execWord_error hd u, h.respond_alike _ _⟩
  | ok i =>
    rw [execWord_ok hd, execWord_ok hd]
    cases i with
    | nop => exact ⟨_, _, rfl, rfl, h.respond_alike _ _⟩
    | keyb idx kdata => exact ⟨_, _, rfl, rfl, (h.withKeyByte idx kdata).respond_alike _ _⟩
    | setdrop cnt => exact ⟨_, _, rfl, rfl, (h.withDropN cnt).respond_alike _ _⟩
    | init klen => exact absurd hd (hw klen)
    | drop cnt =>
      refine ⟨_, _, execDrop_ready h.ready, execDrop_ready h.ready', ?_⟩
      rw [h.cipher]
      exact (h.withCipher _).respond_alike _ _
    | xform din =>
      refine ⟨_, _, execXform_ready h.ready, execXform_ready h.ready', ?_⟩
      rw [h.cipher]
      exact (h.withCipher _).respond_alike _ _

theorem transact_next {ws : List Word32} (hws : ∀ w ∈ ws, ∀ klen, decode w ≠ .ok (.init klen)) :
    ∃ t v rs, transact ws s = .next (t, rs) ∧ transact ws u = .next (v, rs) ∧ SameKeystream t v := by
  induction ws generalizing s u with
  | nil => exact ⟨s, u, [], rfl, rfl, h⟩
  | cons w ws ih =>
    obtain ⟨s', u', hs, hu, hrsp, h'⟩ := h.execWord_next (hws w List.mem_cons_self)
    obtain ⟨t, v, rs, ht, hv, hend⟩ := ih h' fun w' hmem => hws w' (List.mem_cons_of_mem w hmem)
    exact ⟨t, v, s'.rsp :: rs, transact_cons_eq_next.2 ⟨s', rs, hs, ht, rfl⟩,
      transact_cons_eq_next.2 ⟨u', rs, hu, hv, by rw [hrsp]⟩, hend⟩

end SameKeystream

/-- Settles O42, by the relation `SameKeystream`, which every word but INIT keeps. -/
theorem stagedValuesWaitForInit : Obligations.StagedValuesWaitForInit := by
  intro ws s s' hs hs' hc hws
  obtain ⟨t, t', rs, ht, ht', hend⟩ := SameKeystream.transact_next ⟨hs, hs', hc⟩ hws
  exact ⟨t, t', rs, ht, ht', hend.cipher⟩

end Sys2Proof.Machine
end

section
/-! PROOF. The handshake carries out the transaction (spec 10_state.md R24; 20_memory.md R40): the accepting edge
executes the word as `exec` would before it, the engine then waits, offers the response, hands it over and stays idle. -/

namespace Sys2Proof.Machine

/-! ### A word's meaning depends on the engine's state alone -/

theorem observablyEqual_of_sameEngine {s u : State} (h : SameEngine s u) : ObservablyEqual s u := by
  obtain ⟨hc, hs, hK, hKW, hd⟩ := h
  exact ⟨hs, hKW, hd, fun a _ => by rw [hK], fun _ => hc⟩

theorem State.accept_sameEngine (s : State) (inputs : List Pins) (w : Word32) :
    SameEngine s ({ s with inputs := inputs }.accept w) := ⟨rfl, rfl, rfl, rfl, rfl⟩

/-- `K` after a word: only KEYB writes it (R27). -/
def keyTableAfter (w : Word32) (K : Table) : Table :=
  match decode w with
  | .ok (.keyb idx kdata) => tableWrite K idx kdata
  | _ => K

theorem execWord_K {w : Word32} {s t : State} (h : execWord w s = .next t) : t.K = keyTableAfter w s.K := by
  unfold keyTableAfter
  cases wordEffect_of_next h <;> simp [*]

/-- No word that leaves the engine `Uninitialized` writes `S`, `I`, `J`. -/
theorem execWord_uninitialized {w : Word32} {s t : State} (h : execWord w s = .next t) (ht : t.state = .uninitialized) :
    t.cipher = s.cipher := by
  cases wordEffect_of_next h with
  | initLoaded klen hd hl hk => cases ht
  | drop cnt hd hs => cases hs.symm.trans ht
  | xform din hd hs => cases hs.symm.trans ht
  | _ => rfl

theorem execWord_of_sameEngine {w : Word32} {s u t : State} (h : SameEngine s u) (ht : execWord w s = .next t) :
    ∃ v, execWord w u = .next v ∧ SameEngine t v ∧ v.rsp = t.rsp := by
  obtain ⟨v, hv, hrsp, hobs⟩ := (observablyEqual_of_sameEngine h).execWord_next ht
  obtain ⟨hc, -, hK, -⟩ := h
  have hcipher : v.cipher = t.cipher := by
    obtain hu | hr := t.state.uninitialized_or_ready
    · rw [execWord_uninitialized ht hu, execWord_uninitialized hv (hobs.state.trans hu), hc]
    · exact hobs.cipher hr
  have hkey : v.K = t.K := by rw [execWord_K ht, execWord_K hv, hK]
  exact ⟨v, hv, ⟨hcipher, hobs.state, hkey, hobs.written, hobs.dropN⟩, hrsp⟩

/-! ### Edges at which the host only takes responses -/

/-- A host that is ready for a response and offers nothing. -/
def Pins.take : Pins := ⟨false, false, 0#32, true⟩

/-- The host drives `Pins.take` at the next `m` edges. -/
def State.taking (s : State) (m : Nat) : State := { s with inputs := List.replicate m Pins.take }

/-- A waiting engine one edge on: the response is offered once the delay has run (R24). -/
def State.waiting (s : State) : State :=
  { s with waited := s.waited + 1, rspValid := decide (s.responseDelay ≤ s.waited + 1), held := none }

/-- The engine idle again, the response it held handed over. -/
def State.delivered (s : State) : State :=
  { s with busy := false, rspValid := false, held := none, responses := s.responses ++ [s.rsp] }

/-- An edge at which nothing is transferred. -/
theorem State.edge_idle {s : State} {p : Pins} (hr : p.rst = false) (hh : s.held = none ∨ s.held = p.offered)
    (hb : s.busy = false) (hv : p.cmdValid = false) : s.edge p = .next s := by
  simp [State.edge, State.commandEdge, hr, (s.breaksHold_eq_false_iff p).2 hh, hb, hv]

theorem State.responseEdge_taking (s : State) (m : Nat) (p : Pins) :
    (s.taking m).responseEdge p = (s.responseEdge p).taking m := by
  simp only [State.responseEdge, apply_ite (State.taking · m)]
  rfl

theorem step_taking_of_busy {s : State} (hb : s.busy = true) (hh : s.held = none) (m : Nat) :
    step (s.taking (m + 1)) = .next ((s.responseEdge Pins.take).taking m) := by
  rw [← State.responseEdge_taking]
  exact State.edge_busy rfl (.inl hh) hb

theorem step_taking_of_idle {s : State} (hi : Idle s) (m : Nat) : step (s.taking (m + 1)) = .next (s.taking m) := by
  obtain ⟨hb, -, hh⟩ := hi
  exact State.edge_idle (s := s.taking m) (p := Pins.take) rfl (.inl hh) hb rfl

theorem run_taking_of_idle {s : State} (hi : Idle s) (m : Nat) :
    Sys2Proof.core.run m (s.taking m) = .next (s.taking 0) := by
  induction m with
  | zero => rfl
  | succ m ih => rw [run_succ_of_next (step_taking_of_idle hi m), ih]

/-- An offered response is handed over at the first of these edges. -/
theorem run_taking_of_offered {s : State} (hb : s.busy = true) (hh : s.held = none) (hv : s.rspValid = true) (m : Nat) :
    Sys2Proof.core.run (m + 1) (s.taking (m + 1)) = .next (s.delivered.taking 0) := by
  have hedge : s.responseEdge Pins.take = s.delivered := by
    simp [State.responseEdge, State.delivered, hv, Pins.take, Pins.offered]
  rw [run_succ_of_next (step_taking_of_busy hb hh m), hedge]
  exact run_taking_of_idle ⟨rfl, rfl, rfl⟩ m

theorem run_taking_of_unoffered {s : State} (hb : s.busy = true) (hh : s.held = none) (hv : s.rspValid = false)
    (m : Nat) :
    Sys2Proof.core.run (m + 1) (s.taking (m + 1)) = Sys2Proof.core.run m (s.waiting.taking m) := by
  have hedge : s.responseEdge Pins.take = s.waiting := by
    simp [State.responseEdge, State.waiting, hv, Pins.take, Pins.offered]
  rw [run_succ_of_next (step_taking_of_busy hb hh m), hedge]

/-- A waiting engine hands its response over, given edges enough for the rest of its delay and two more. -/
theorem run_taking_of_waiting {s : State} {m : Nat} (hb : s.busy = true) (hh : s.held = none) (hv : s.rspValid = false)
    (hm : 2 ≤ m) (hdelay : s.responseDelay + 1 ≤ s.waited + m) :
    ∃ j, Sys2Proof.core.run m (s.taking m) = .next (State.taking { s.delivered with waited := j } 0) := by
  induction m generalizing s with
  | zero => omega
  | succ m ih =>
    rw [run_taking_of_unoffered hb hh hv]
    by_cases hoffer : s.responseDelay ≤ s.waited + 1
    · obtain ⟨n, rfl⟩ := Nat.exists_eq_succ_of_ne_zero (show m ≠ 0 by omega)
      exact ⟨_, run_taking_of_offered (s := s.waiting) hb rfl (decide_eq_true hoffer) n⟩
    · have hrest : s.responseDelay + 1 ≤ s.waited + 1 + m := by omega
      exact ih (s := s.waiting) hb rfl (decide_eq_false hoffer) (by omega) hrest

/-- The edge at which an idle engine accepts a word, whatever the host drives afterwards. -/
theorem step_offer_of_idle {s : State} (hi : Idle s) (w : Word32) (rest : List Pins) :
    step { s with inputs := ⟨false, true, w, true⟩ :: rest } = execWord w ({ s with inputs := rest }.accept w) := by
  obtain ⟨hb, -, hh⟩ := hi
  obtain ⟨hstep, -⟩ := stepRunsOfferedWord { s with inputs := ⟨false, true, w, true⟩ :: rest }
    ⟨false, true, w, true⟩ rest rfl rfl rfl hb (.inl hh)
  exact hstep

/-- What the accepting edge leaves: `exec`'s state and response, in an engine that has its whole delay to wait. -/
theorem execWord_accept {s t : State} {w : Word32} (hv : s.rspValid = false) (h : execWord w s = .next t)
    (m : Nat) :
    ∃ v, execWord w ((s.taking m).accept w) = .next (v.taking m) ∧ SameEngine t v ∧ v.rsp = t.rsp ∧
      v.busy = true ∧ v.held = none ∧ v.rspValid = false ∧ v.responses = s.responses ∧
      v.responseDelay = latencyOf w t.dropN + Config.stall (s.freeIndex + 1) := by
  obtain ⟨v, hnext, hsame, hrsp⟩ := execWord_of_sameEngine (s.accept_sameEngine (List.replicate m Pins.take) w) h
  obtain ⟨hbusy, hcmd, -, hvalid, hinputs, hheld, hresponses, hindex⟩ := execWord_sameHandshake hnext
  have htaking : v.taking m = v := by rw [State.taking, ← show v.inputs = List.replicate m Pins.take from hinputs]
  have hdelay : v.responseDelay = latencyOf w t.dropN + Config.stall (s.freeIndex + 1) := by
    obtain ⟨-, -, -, -, hdropN⟩ := hsame
    rw [State.responseDelay, hcmd, hdropN, hindex]
    rfl
  exact ⟨v, htaking.symm ▸ hnext, hsame, hrsp, hbusy, hheld, hvalid.trans hv, hresponses, hdelay⟩

/-- Settles O36: the accepting edge executes the word as `exec` does before it, and the edges after it hand over the
response once its delay has run; two edges more than the delay are enough. -/
theorem handshakeRefinesTransaction : Obligations.HandshakeRefinesTransaction := by
  refine fun s w hi => ⟨fun t ht =>
    ⟨latencyOf w t.dropN + Config.stall (s.freeIndex + 1) + 2, fun m hm => ?_⟩, fun r hr rest => ?_⟩
  · have ⟨_, hnone, _⟩ := hi
    obtain ⟨v, haccept, hsame, hrsp, hb, hh, hv, hresponses, hdelay⟩ := execWord_accept hnone ht m
    obtain ⟨j, hrun⟩ := run_taking_of_waiting (m := m) hb hh hv (by omega) (by omega)
    have hfirst := run_succ_of_next (n := m) ((step_offer_of_idle hi w (List.replicate m Pins.take)).trans haccept)
    refine ⟨_, hfirst.trans hrun, ⟨rfl, rfl, rfl⟩, rfl, hsame, ?_⟩
    rw [← hresponses, ← hrsp]
    rfl
  · rw [step_offer_of_idle hi]
    exact (observablyEqual_of_sameEngine (s.accept_sameEngine rest w)).execWord_fault hr

end Sys2Proof.Machine
end

section
/-! PROOF. The decoder and the encoder (spec 30_encoding.md R53, R54, R57, R60 to R62), by numbers: a word is a command
exactly when its number is the one the assembly table writes for that command's line, and every other number is illegal. -/

namespace Sys2Proof

/-- The number the assembly table of R58 writes for a line. -/
def SourceLine.number (l : SourceLine) : Nat :=
  match l.mnemonic, l.operands with
  | .keyb, [idx, byte] => 0x10000000 + idx * 256 + byte
  | .setdrop, [n] => 0x20000000 + n
  | .init, [len] => 0x30000000 + len
  | .drop, [n] => 0x40000000 + n
  | .xform, [byte] => 0x50000000 + byte
  | _, _ => 0

@[simp] theorem Instr.nop_number : Instr.nop.sourceLine.number = 0 := rfl
@[simp] theorem Instr.keyb_number (idx kdata : Byte) :
    (Instr.keyb idx kdata).sourceLine.number = 0x10000000 + idx.toNat * 256 + kdata.toNat := rfl
@[simp] theorem Instr.setdrop_number (cnt : Count) : (Instr.setdrop cnt).sourceLine.number = 0x20000000 + cnt.toNat := rfl
@[simp] theorem Instr.init_number (klen : KeyLen) : (Instr.init klen).sourceLine.number = 0x30000000 + klen.toNat := rfl
@[simp] theorem Instr.drop_number (cnt : Count) : (Instr.drop cnt).sourceLine.number = 0x40000000 + cnt.toNat := rfl
@[simp] theorem Instr.xform_number (din : Byte) : (Instr.xform din).sourceLine.number = 0x50000000 + din.toNat := rfl

/-- The numbers of R54: a reserved opcode, or a reserved bit that is 1. -/
def IllegalNumber (n : Nat) : Prop :=
  6 ≤ n / 2 ^ 28 ∨
  (n / 2 ^ 28 = 0 ∧ n % 2 ^ 28 ≠ 0) ∨
  (n / 2 ^ 28 = 1 ∧ n / 2 ^ 16 % 2 ^ 12 ≠ 0) ∨
  (n / 2 ^ 28 = 3 ∧ n / 2 ^ 9 % 2 ^ 19 ≠ 0) ∨
  (n / 2 ^ 28 = 5 ∧ n / 2 ^ 8 % 2 ^ 20 ≠ 0)

theorem toNat_extractLsb' (w : Word32) (start len : Nat) :
    (w.extractLsb' start len).toNat = w.toNat / 2 ^ start % 2 ^ len := by
  rw [BitVec.extractLsb'_toNat, Nat.shiftRight_eq_div_pow]

/-- What a field holds, as a number. -/
theorem extractLsb'_eq_iff {w : Word32} {start len : Nat} {v : BitVec len} :
    w.extractLsb' start len = v ↔ w.toNat / 2 ^ start % 2 ^ len = v.toNat := by
  rw [← BitVec.toNat_inj, toNat_extractLsb']

/-! ### The encoder's number -/

/-- A field put into the zeros below a pattern adds its number. -/
theorem toNat_or_field {k : Nat} (q : Nat) (v : BitVec k) (hk : k ≤ 32) (hq : 2 ^ k * q < 2 ^ 32) :
    (BitVec.ofNat 32 (2 ^ k * q) ||| v.setWidth 32).toNat = 2 ^ k * q + v.toNat := by
  have hv : v.toNat < 2 ^ 32 := v.isLt.trans_le (Nat.pow_le_pow_right (by omega) hk)
  rw [BitVec.toNat_or, BitVec.toNat_ofNat, BitVec.toNat_setWidth, Nat.mod_eq_of_lt hq, Nat.mod_eq_of_lt hv,
    Nat.two_pow_add_eq_or_of_lt v.isLt]

/-- `KEYB`'s upper half: the opcode over `IDX`. -/
theorem keyb_high (idx : Byte) :
    0x10000000#32 ||| (idx.setWidth 32 <<< 8) = BitVec.ofNat 32 (2 ^ 8 * (0x100000 + idx.toNat)) := by
  have hor : (0x100000#32 ||| idx.setWidth 32).toNat = 0x100000 + idx.toNat :=
    toNat_or_field 0x1000 idx (by omega) (by omega)
  apply BitVec.eq_of_toNat_eq
  rw [show 0x10000000#32 = 0x100000#32 <<< 8 from rfl, ← BitVec.shiftLeft_or_distrib, BitVec.toNat_shiftLeft, hor,
    Nat.shiftLeft_eq, Nat.mul_comm, BitVec.toNat_ofNat]

/-- The encoder writes the number of the assembly table. -/
theorem encode_toNat (i : Instr) : (encode i).toNat = i.sourceLine.number := by
  cases i with
  | nop => rfl
  | keyb idx kdata =>
    rw [encode, keyb_high, toNat_or_field _ kdata (by omega) (by omega), Instr.keyb_number]
    omega
  | setdrop cnt => exact toNat_or_field 2 cnt (by omega) (by omega)
  | init klen => exact toNat_or_field 0x180000 klen (by omega) (by omega)
  | drop cnt => exact toNat_or_field 4 cnt (by omega) (by omega)
  | xform din => exact toNat_or_field 0x500000 din (by omega) (by omega)

theorem encode_eq_iff {w : Word32} {i : Instr} : encode i = w ↔ w.toNat = i.sourceLine.number := by
  rw [← BitVec.toNat_inj, encode_toNat, eq_comm]

/-! ### The decoder on numbers -/

/-- What the decoder answers, branch by branch (R60): a command that is encoded as the word, or an error, and then the
number is illegal. -/
theorem decode_cases (w : Word32) :
    (∃ i, decode w = .ok i ∧ encode i = w) ∨ ∃ e, decode w = .error e ∧ IllegalNumber w.toNat := by
  simp only [decode, opcodeField, extractLsb'_eq_iff, encode_eq_iff, IllegalNumber, BitVec.ofNat_eq_ofNat,
    BitVec.toNat_ofNat]
  split_ifs with op0 res op1 res op2 op3 res op4 op5 res
  · exact .inl ⟨_, rfl, by rw [Instr.nop_number]; omega⟩
  · exact .inr ⟨_, rfl, by omega⟩
  · exact .inl ⟨_, rfl, by rw [Instr.keyb_number, toNat_extractLsb', toNat_extractLsb']; omega⟩
  · exact .inr ⟨_, rfl, by omega⟩
  · exact .inl ⟨_, rfl, by rw [Instr.setdrop_number, toNat_extractLsb']; omega⟩
  · exact .inl ⟨_, rfl, by rw [Instr.init_number, toNat_extractLsb']; omega⟩
  · exact .inr ⟨_, rfl, by omega⟩
  · exact .inl ⟨_, rfl, by rw [Instr.drop_number, toNat_extractLsb']; omega⟩
  · exact .inl ⟨_, rfl, by rw [Instr.xform_number, toNat_extractLsb']; omega⟩
  · exact .inr ⟨_, rfl, by omega⟩
  · exact .inr ⟨_, rfl, by omega⟩

/-- The number of a command selects its own branch of the decoder, and the fields give back the operands. -/
theorem decode_encode (i : Instr) : decode (encode i) = .ok i := by
  have hw := encode_toNat i
  generalize encode i = w at hw
  simp only [decode, opcodeField, extractLsb'_eq_iff, BitVec.ofNat_eq_ofNat, BitVec.toNat_ofNat]
  cases i with
  | nop =>
    rw [Instr.nop_number] at hw
    rw [if_pos (by omega), if_pos (by omega)]
  | keyb idx kdata =>
    rw [Instr.keyb_number] at hw
    rw [if_neg (by omega), if_pos (by omega), if_pos (by omega), extractLsb'_eq_iff (v := idx).2 (by omega),
      extractLsb'_eq_iff (v := kdata).2 (by omega)]
  | setdrop cnt =>
    rw [Instr.setdrop_number] at hw
    rw [if_neg (by omega), if_neg (by omega), if_pos (by omega), extractLsb'_eq_iff (v := cnt).2 (by omega)]
  | init klen =>
    rw [Instr.init_number] at hw
    rw [if_neg (by omega), if_neg (by omega), if_neg (by omega), if_pos (by omega), if_pos (by omega),
      extractLsb'_eq_iff (v := klen).2 (by omega)]
  | drop cnt =>
    rw [Instr.drop_number] at hw
    rw [if_neg (by omega), if_neg (by omega), if_neg (by omega), if_neg (by omega), if_pos (by omega),
      extractLsb'_eq_iff (v := cnt).2 (by omega)]
  | xform din =>
    rw [Instr.xform_number] at hw
    rw [if_neg (by omega), if_neg (by omega), if_neg (by omega), if_neg (by omega), if_neg (by omega), if_pos (by omega),
      if_pos (by omega), extractLsb'_eq_iff (v := din).2 (by omega)]

/-- No command is encoded as an illegal number: its opcode is below 6 and its reserved bits are 0. -/
theorem not_illegalNumber (i : Instr) : ¬ IllegalNumber i.sourceLine.number := by
  cases i <;> simp only [IllegalNumber, Instr.nop_number, Instr.keyb_number, Instr.setdrop_number, Instr.init_number,
    Instr.drop_number, Instr.xform_number] <;> omega

theorem encode_of_decode {w : Word32} {i : Instr} (h : decode w = .ok i) : encode i = w := by
  obtain ⟨j, hj, hw⟩ | ⟨e, he, -⟩ := decode_cases w
  · cases h.symm.trans hj
    exact hw
  · cases h.symm.trans he

theorem decode_eq_ok_iff {w : Word32} {i : Instr} : decode w = .ok i ↔ encode i = w :=
  ⟨encode_of_decode, fun h => h ▸ decode_encode i⟩

theorem decode_error_iff {w : Word32} : (∃ e, decode w = .error e) ↔ IllegalNumber w.toNat := by
  obtain ⟨i, hi, hw⟩ | ⟨e, he, hw⟩ := decode_cases w
  · simpa [hi, encode_eq_iff.1 hw] using not_illegalNumber i
  · exact iff_of_true ⟨e, he⟩ hw

/-- Settles O6: the encoder writes the assembly table's number, and the decoder answers a command with that number alone. -/
theorem encodeDecodeRoundTrip : Obligations.EncodeDecodeRoundTrip :=
  ⟨fun i _ => decode_encode i, fun _ _ => encode_of_decode⟩

/-! ### The opcode map (R53) -/

/-- The bits below a row's match column that carry its operands. -/
def Mnemonic.operandBits : Mnemonic → Nat
  | .nop => 0
  | .keyb => 16
  | .setdrop => 28
  | .init => 9
  | .drop => 28
  | .xform => 8

theorem Mnemonic.mask_eq (m : Mnemonic) : m.mask = BitVec.allOnes 32 <<< m.operandBits := by cases m <;> rfl

/-- A row's mask keeps the bits above its operands. -/
theorem matchesWord_iff (m : Mnemonic) (w : Word32) :
    m.matchesWord w = true ↔ w.toNat / 2 ^ m.operandBits * 2 ^ m.operandBits = m.pattern.toNat := by
  have hlt : w.toNat / 2 ^ m.operandBits * 2 ^ m.operandBits < 2 ^ 32 := (Nat.div_mul_le_self _ _).trans_lt w.isLt
  rw [Mnemonic.matchesWord, beq_iff_eq, m.mask_eq, ← BitVec.shiftLeft_ushiftRight, ← BitVec.toNat_inj,
    BitVec.toNat_shiftLeft, BitVec.toNat_ushiftRight, Nat.shiftRight_eq_div_pow, Nat.shiftLeft_eq, Nat.mod_eq_of_lt hlt]

/-- The word of a command lies in the row of its mnemonic: the model's own laws, put together. -/
theorem matchesWord_encode (i : Instr) : i.sourceLine.mnemonic.matchesWord (encode i) = true := by
  cases i with
  | nop => exact Laws.EncodeInRow.nop
  | keyb idx kdata => exact Laws.EncodeInRow.keyb idx kdata
  | setdrop cnt => exact Laws.EncodeInRow.setdrop cnt
  | init klen => exact Laws.EncodeInRow.init klen
  | drop cnt => exact Laws.EncodeInRow.drop cnt
  | xform din => exact Laws.EncodeInRow.xform din

/-- A row's pattern is the number of its line with operands 0. -/
theorem exists_encode_of_matchesWord {m : Mnemonic} {w : Word32} (h : m.matchesWord w = true) :
    ∃ i, encode i = w ∧ i.sourceLine.mnemonic = m := by
  rw [matchesWord_iff] at h
  simp only [encode_eq_iff]
  cases m <;> simp only [Mnemonic.operandBits, Mnemonic.pattern, BitVec.toNat_ofNat] at h
  case nop => exact ⟨.nop, by rw [Instr.nop_number]; omega, rfl⟩
  case keyb =>
    refine ⟨.keyb (.ofNat 8 (w.toNat / 256)) (.ofNat 8 w.toNat), ?_, rfl⟩
    rw [Instr.keyb_number, BitVec.toNat_ofNat, BitVec.toNat_ofNat]
    omega
  case setdrop =>
    refine ⟨.setdrop (.ofNat 28 w.toNat), ?_, rfl⟩
    rw [Instr.setdrop_number, BitVec.toNat_ofNat]
    omega
  case init =>
    refine ⟨.init (.ofNat 9 w.toNat), ?_, rfl⟩
    rw [Instr.init_number, BitVec.toNat_ofNat]
    omega
  case drop =>
    refine ⟨.drop (.ofNat 28 w.toNat), ?_, rfl⟩
    rw [Instr.drop_number, BitVec.toNat_ofNat]
    omega
  case xform =>
    refine ⟨.xform (.ofNat 8 w.toNat), ?_, rfl⟩
    rw [Instr.xform_number, BitVec.toNat_ofNat]
    omega

theorem matchesWord_iff_decode (m : Mnemonic) (w : Word32) :
    m.matchesWord w = true ↔ ∃ i, decode w = .ok i ∧ i.sourceLine.mnemonic = m := by
  simp only [decode_eq_ok_iff]
  constructor
  · exact exists_encode_of_matchesWord
  · rintro ⟨i, rfl, rfl⟩
    exact matchesWord_encode i

/-- Settles O8: a row's match is a command of its mnemonic, and a word decodes to one command at most. -/
theorem opcodeMapMatchesDecoder : Obligations.OpcodeMapMatchesDecoder := by
  refine ⟨matchesWord_iff_decode, fun m m' w h h' => ?_⟩
  obtain ⟨i, hi, rfl⟩ := (matchesWord_iff_decode m w).1 h
  obtain ⟨i', hi', rfl⟩ := (matchesWord_iff_decode m' w).1 h'
  cases hi.symm.trans hi'
  rfl

/-! ### Operands and illegal words -/

/-- Settles O9: the word is its command's number, and each field of it is an operand. -/
theorem operandsAreFields : Obligations.OperandsAreFields := by
  intro w i h
  have hw := encode_eq_iff.1 (encode_of_decode h)
  cases i <;> simp only [Instr.sourceLine, SourceLine.number, List.cons.injEq, and_true] at hw ⊢ <;> omega

/-- Settles O10: the decoder is run on each word of the table. -/
theorem workedExamplesDecode : Obligations.WorkedExamplesDecode := by
  unfold Obligations.WorkedExamplesDecode
  decide

end Sys2Proof

namespace Sys2Proof.Machine

theorem failsWith_of_decode_error {w : Word32} (h : ∃ e, decode w = .error e) (s : State) : FailsWith w s 3#3 := by
  obtain ⟨e, he⟩ := h
  exact ⟨_, execWord_error he s, rfl, by simp [SameEngine], by simp [SameHandshake]⟩

/-- Settles O7: the error branches of the decoder are R54's two conditions, and an illegal word is answered alone. -/
theorem illegalWordsAreRejected : Obligations.IllegalWordsAreRejected := by
  refine fun w => ⟨decode_error_iff, failsWith_of_decode_error, fun hlegal => ?_⟩
  obtain ⟨i, hi, -⟩ | ⟨e, he, -⟩ := decode_cases w
  · exact ⟨i, hi, fun j hj => Except.ok.inj (hj.symm.trans hi)⟩
  · exact absurd ⟨e, he⟩ hlegal

end Sys2Proof.Machine
end

section
/-! PROOF. The assembler on lines (spec 30_encoding.md R58, R63): the lines it accepts are those of the commands, each
assembled to its command; the pseudo-commands are lists of such lines. -/

namespace Sys2Proof.Machine

/-- A line in range is a command's: each operand fits in its field. -/
theorem exists_sourceLine_of_wellFormed {l : SourceLine} (h : l.wellFormed = true) : ∃ i : Instr, i.sourceLine = l := by
  obtain ⟨m, ops⟩ := l
  dsimp only [SourceLine.wellFormed] at h
  split at h <;> simp only [Bool.and_eq_true, decide_eq_true_eq, reduceCtorEq] at h
  case h_1 => exact ⟨.nop, rfl⟩
  case h_2 idx byte =>
    refine ⟨.keyb (.ofNat 8 idx) (.ofNat 8 byte), ?_⟩
    rw [Instr.sourceLine, BitVec.toNat_ofNat, BitVec.toNat_ofNat, Nat.mod_eq_of_lt (by omega), Nat.mod_eq_of_lt (by omega)]
  case h_3 n =>
    refine ⟨.setdrop (.ofNat 28 n), ?_⟩
    rw [Instr.sourceLine, BitVec.toNat_ofNat, Nat.mod_eq_of_lt (by omega)]
  case h_4 len =>
    refine ⟨.init (.ofNat 9 len), ?_⟩
    rw [Instr.sourceLine, BitVec.toNat_ofNat, Nat.mod_eq_of_lt (by omega)]
  case h_5 n =>
    refine ⟨.drop (.ofNat 28 n), ?_⟩
    rw [Instr.sourceLine, BitVec.toNat_ofNat, Nat.mod_eq_of_lt (by omega)]
  case h_6 byte =>
    refine ⟨.xform (.ofNat 8 byte), ?_⟩
    rw [Instr.sourceLine, BitVec.toNat_ofNat, Nat.mod_eq_of_lt (by omega)]

theorem wellFormed_sourceLine (i : Instr) : i.sourceLine.wellFormed = true := by
  cases i <;> simp only [Instr.sourceLine, SourceLine.wellFormed, Bool.and_eq_true, decide_eq_true_eq] <;> omega

theorem assemble_sourceLine (i : Instr) : assemble i.sourceLine = some i := by
  rw [assemble, if_pos (wellFormed_sourceLine i)]
  cases i <;> simp only [Instr.sourceLine, BitVec.ofNat_toNat, BitVec.setWidth_eq]

theorem assembleWord_sourceLine (i : Instr) : assembleWord i.sourceLine = some (encode i) := by
  rw [assembleWord, assemble_sourceLine, Option.map_some]

/-- An assembler refuses any line that is no command's. -/
theorem assembleWord_eq_some_iff {l : SourceLine} {w : Word32} :
    assembleWord l = some w ↔ ∃ i : Instr, i.sourceLine = l ∧ encode i = w := by
  constructor
  · intro h
    by_cases hl : l.wellFormed = true
    · obtain ⟨i, rfl⟩ := exists_sourceLine_of_wellFormed hl
      exact ⟨i, rfl, Option.some.inj ((assembleWord_sourceLine i).symm.trans h)⟩
    · rw [assembleWord, assemble, if_neg hl] at h
      cases h
  · rintro ⟨i, rfl, rfl⟩
    exact assembleWord_sourceLine i

/-- Settles O45: a line that assembles is a command's, whose word has the number of the assembly table. -/
theorem assemblerWritesTable : Obligations.AssemblerWritesTable := by
  refine ⟨fun l w => ?_, assemble_sourceLine⟩
  change _ ↔ l.wellFormed = true ∧ w.toNat = l.number
  rw [assembleWord_eq_some_iff]
  constructor
  · rintro ⟨i, rfl, rfl⟩
    exact ⟨wellFormed_sourceLine i, encode_toNat i⟩
  · rintro ⟨hl, hw⟩
    obtain ⟨i, rfl⟩ := exists_sourceLine_of_wellFormed hl
    exact ⟨i, rfl, encode_eq_iff.2 hw⟩

/-! ### Pseudo-commands -/

theorem assembleAll_sourceLines (is : List Instr) : assembleAll (is.map Instr.sourceLine) = some (is.map encode) := by
  induction is with
  | nil => rfl
  | cons i is ih =>
    rw [assembleAll] at ih ⊢
    simp [assembleWord_sourceLine, ih]

/-- LOADKEY's lines are those of the key's KEYBs: an index of a legal key fits in `IDX`. -/
theorem loadKey_eq_sourceLines {key : List Byte} (h : key.length ≤ 256) :
    loadKey (key.map BitVec.toNat) = (keyCommands key).map Instr.sourceLine := by
  rw [loadKey, keyCommands, List.zipIdx_map, List.map_map, List.map_map]
  refine List.map_congr_left fun x hx => ?_
  have hidx : x.2 < key.length := by simpa using List.snd_lt_of_mem_zipIdx hx
  simp [Instr.sourceLine, Nat.mod_eq_of_lt (show x.2 < 256 by omega)]

theorem construct_eq_sourceLines {key : List Byte} (d : Count) (h : key.length ≤ 256) :
    construct (key.map BitVec.toNat) (some d.toNat) =
      (keyCommands key ++ [Instr.setdrop d, Instr.init (.ofNat 9 key.length)]).map Instr.sourceLine := by
  simp [construct, loadKey_eq_sourceLines h, Instr.sourceLine, Nat.mod_eq_of_lt (show key.length < 512 by omega)]

theorem transform_eq_sourceLines (data : List Byte) :
    transform (data.map BitVec.toNat) = (data.map Instr.xform).map Instr.sourceLine := by
  simp [transform, Instr.sourceLine]

/-- Settles O46: each pseudo-command is the list of its commands' lines, and every line of a command assembles. -/
theorem pseudoCommandsExpand : Obligations.PseudoCommandsExpand := by
  refine ⟨fun key d h => ?_, fun data => ?_, assembleAll_sourceLines [.xform 0]⟩
  · rw [construct_eq_sourceLines d h, assembleAll_sourceLines]
  · rw [transform_eq_sourceLines, assembleAll_sourceLines, transformWords, List.map_map]
    rfl

end Sys2Proof.Machine
end

section
/-! PROOF. The disassembler (spec 30_encoding.md R58, R59; log 18): the text of a line reads back as the line, digit by
digit, piece by piece between commas, and mnemonic before operands; the text of an illegal word starts no command. -/

namespace Sys2Proof.Machine

/-! ### Digits and numbers -/

/-- The decimal digits `0` to `9`. -/
def IsDecimal (c : Char) : Prop := 48 ≤ c.toNat ∧ c.toNat ≤ 57

theorem isDecimal_digitText {d : Nat} (h : d < 10) : IsDecimal (digitText d) := by
  unfold IsDecimal
  revert d
  decide

theorem decimalDigit_digitText {d : Nat} (h : d < 10) : decimalDigit (digitText d) = some d := by
  revert d
  decide

theorem hexDigit_hexDigitText {d : Nat} (h : d < 16) : hexDigit (hexDigitText d) = some d := by
  revert d
  decide

theorem IsDecimal.ne {c : Char} (h : IsDecimal c) {c' : Char} (h' : c'.toNat < 48 ∨ 57 < c'.toNat) : c ≠ c' := by
  rintro rfl
  unfold IsDecimal at h
  omega

theorem IsDecimal.not_isBlank {c : Char} (h : IsDecimal c) : isBlank c = false := by
  rw [isBlank, beq_false_of_ne (h.ne (by decide)), beq_false_of_ne (h.ne (by decide)), Bool.or_false]

theorem readDigits_append (base : Nat) (digit : Char → Option Nat) (cs ds : List Char) (acc : Nat) :
    readDigits base digit (cs ++ ds) acc = (readDigits base digit cs acc).bind (readDigits base digit ds) := by
  induction cs generalizing acc with
  | nil => rfl
  | cons c cs ih =>
    simp only [List.cons_append, readDigits]
    cases digit c with
    | none => rfl
    | some d => exact ih _

/-- Digits written by `text` and read by `digit` give their value (Horner's rule). -/
theorem readDigits_map {base : Nat} {digit : Char → Option Nat} {text : Nat → Char} {ds : List Nat}
    (h : ∀ d ∈ ds, digit (text d) = some d) (acc : Nat) :
    readDigits base digit (ds.map text) acc = some (ds.foldl (fun v d => v * base + d) acc) := by
  induction ds generalizing acc with
  | nil => rfl
  | cons d ds ih =>
    rw [List.forall_mem_cons] at h
    simp only [List.map_cons, readDigits, h.1, List.foldl_cons]
    exact ih h.2 _

theorem isDecimal_of_mem_decimalText {fuel n : Nat} {c : Char} (h : c ∈ decimalText fuel n) : IsDecimal c := by
  induction fuel generalizing n with
  | zero => cases h
  | succ fuel ih =>
    rw [decimalText] at h
    split at h
    case isTrue hn => exact List.mem_singleton.1 h ▸ isDecimal_digitText hn
    case isFalse =>
      rcases List.mem_append.1 h with h | h
      · exact ih h
      · exact List.mem_singleton.1 h ▸ isDecimal_digitText (Nat.mod_lt n (by decide))

theorem decimalText_ne_nil (fuel n : Nat) : decimalText (fuel + 1) n ≠ [] := by
  rw [decimalText]
  split
  · exact List.cons_ne_nil _ _
  · exact List.append_ne_nil_of_right_ne_nil _ (List.cons_ne_nil _ _)

theorem readDigits_decimalText {fuel n : Nat} (h : n < 10 ^ fuel) :
    readDigits 10 decimalDigit (decimalText fuel n) 0 = some n := by
  induction fuel generalizing n with
  | zero => rw [Nat.lt_one_iff.1 h]; rfl
  | succ fuel ih =>
    rw [decimalText]
    split
    case isTrue hn => simp [readDigits, decimalDigit_digitText hn]
    case isFalse =>
      rw [readDigits_append, ih (by omega), Option.bind_some]
      simp only [readDigits, decimalDigit_digitText (Nat.mod_lt n (show 10 > 0 by decide))]
      rw [Nat.div_add_mod' n 10]

/-- Decimal digits never start a hexadecimal number, which takes an `x`. -/
theorem readNumber_of_isDecimal {cs : List Char} (hne : cs ≠ []) (h : ∀ c ∈ cs, IsDecimal c) :
    readNumber cs = readDigits 10 decimalDigit cs 0 := by
  have hx : 'x' ∉ cs := fun hmem => (h _ hmem).ne (by decide) rfl
  unfold readNumber
  split
  · exact absurd rfl hne
  · simp at hx
  · simp at hx
  · rfl

theorem readNumber_decimalText {n : Nat} (h : n < 10 ^ 10) : readNumber (decimalText 10 n) = some n := by
  rw [readNumber_of_isDecimal (decimalText_ne_nil 9 n) fun _ => isDecimal_of_mem_decimalText, readDigits_decimalText h]

/-! ### White space -/

theorem isBlank_space : ∀ c ∈ [' '], isBlank c = true := by simp [isBlank]

/-- A text that neither starts nor ends with white space. -/
def Trimmed (cs : List Char) : Prop :=
  (∀ c ∈ cs.head?, isBlank c = false) ∧ ∀ c ∈ cs.getLast?, isBlank c = false

theorem trimmed_of_not_isBlank {cs : List Char} (h : ∀ c ∈ cs, isBlank c = false) : Trimmed cs :=
  ⟨fun c hc => h c (List.mem_of_head? hc), fun c hc => h c (List.mem_of_getLast? hc)⟩

theorem Trimmed.append {cs ds : List Char} (hc : Trimmed cs) (hcne : cs ≠ []) (hd : Trimmed ds) (hdne : ds ≠ [])
    (mid : List Char) : Trimmed (cs ++ (mid ++ ds)) := by
  obtain ⟨c, hhead⟩ := Option.isSome_iff_exists.1 (List.isSome_head?.2 hcne)
  obtain ⟨d, hlast⟩ := Option.isSome_iff_exists.1 (List.getLast?_isSome.2 hdne)
  constructor
  · simpa [List.head?_append, hhead] using hc.1 c hhead
  · rw [List.getLast?_append, List.getLast?_append, hlast]
    simpa using hd.2 d hlast

theorem Trimmed.trimBlanks_eq {cs : List Char} (h : Trimmed cs) : trimBlanks cs = cs := by
  have hfirst : cs.dropWhile isBlank = cs := List.dropWhile_eq_self_iff.2 fun hl => by
    simp [h.1 cs[0] (by simp [List.head?_eq_getElem?, hl])]
  have hlast : cs.rdropWhile isBlank = cs := List.rdropWhile_eq_self_iff.2 fun hl => by
    simp [h.2 (cs.getLast hl) (List.getLast?_eq_some_getLast hl)]
  rw [trimBlanks, hfirst]
  exact hlast

theorem trimBlanks_append {bs cs : List Char} (hb : ∀ c ∈ bs, isBlank c = true) (h : Trimmed cs) :
    trimBlanks (bs ++ cs) = cs := by
  rw [trimBlanks, List.dropWhile_append_of_pos hb]
  exact h.trimBlanks_eq

theorem trimmed_decimalText (n : Nat) : Trimmed (decimalText 10 n) :=
  trimmed_of_not_isBlank fun _ hc => (isDecimal_of_mem_decimalText hc).not_isBlank

/-! ### Operands -/

theorem splitCommas_of_not_mem {cs : List Char} (h : ',' ∉ cs) : splitCommas cs = [cs] := by
  induction cs with
  | nil => rfl
  | cons c cs ih =>
    rw [List.mem_cons, not_or] at h
    rw [splitCommas, if_neg (Ne.symm h.1), ih h.2]

theorem splitCommas_append {cs : List Char} (h : ',' ∉ cs) (ds : List Char) :
    splitCommas (cs ++ ',' :: ds) = cs :: splitCommas ds := by
  induction cs with
  | nil => rfl
  | cons c cs ih =>
    rw [List.mem_cons, not_or] at h
    rw [List.cons_append, splitCommas, if_neg (Ne.symm h.1), ih h.2]

theorem operandsText_cons_cons (n m : Nat) (ns : List Nat) :
    operandsText (n :: m :: ns) = decimalText 10 n ++ ([',', ' '] ++ operandsText (m :: ns)) := by
  rw [operandsText, List.append_assoc]
  exact List.cons_ne_nil _ _

theorem operandsText_ne_nil (n : Nat) (ns : List Nat) : operandsText (n :: ns) ≠ [] := by
  cases ns with
  | nil => exact decimalText_ne_nil 9 n
  | cons m ns =>
    rw [operandsText_cons_cons]
    exact List.append_ne_nil_of_left_ne_nil (decimalText_ne_nil 9 n) _

theorem trimmed_operandsText (n : Nat) (ns : List Nat) : Trimmed (operandsText (n :: ns)) := by
  induction ns generalizing n with
  | nil => exact trimmed_decimalText n
  | cons m ns ih =>
    rw [operandsText_cons_cons]
    exact (trimmed_decimalText n).append (decimalText_ne_nil 9 n) (ih m) (operandsText_ne_nil m ns) _

theorem semicolon_not_mem_operandsText (ns : List Nat) : ';' ∉ operandsText ns := by
  have hdigits : ∀ n, ';' ∉ decimalText 10 n := fun n h => (isDecimal_of_mem_decimalText h).ne (by decide) rfl
  induction ns with
  | nil => exact List.not_mem_nil
  | cons n ns ih =>
    cases ns with
    | nil => exact hdigits n
    | cons m ns =>
      rw [operandsText_cons_cons]
      simp [hdigits n, ih]

theorem comma_not_mem_piece {bs : List Char} (hb : ∀ c ∈ bs, isBlank c = true) (n : Nat) :
    ',' ∉ bs ++ decimalText 10 n := by
  rw [List.mem_append]
  rintro (h | h)
  · exact absurd (hb _ h) (by decide)
  · exact (isDecimal_of_mem_decimalText h).ne (by decide) rfl

theorem readNumber_piece {bs : List Char} (hb : ∀ c ∈ bs, isBlank c = true) {n : Nat} (h : n < 10 ^ 10) :
    readNumber (trimBlanks (bs ++ decimalText 10 n)) = some n := by
  rw [trimBlanks_append hb (trimmed_decimalText n), readNumber_decimalText h]

/-- Every piece but the first stands after a blank, so the induction has blanks `bs` before the first as well. -/
theorem mapM_readNumber_operandsText {bs : List Char} (hb : ∀ c ∈ bs, isBlank c = true) {n : Nat} {ns : List Nat}
    (h : ∀ m ∈ n :: ns, m < 10 ^ 10) :
    ((splitCommas (bs ++ operandsText (n :: ns))).mapM fun piece => readNumber (trimBlanks piece)) = some (n :: ns) := by
  rw [List.forall_mem_cons] at h
  obtain ⟨hn, hns⟩ := h
  induction ns generalizing bs n with
  | nil =>
    rw [operandsText, splitCommas_of_not_mem (comma_not_mem_piece hb n)]
    simp [readNumber_piece hb hn]
  | cons m ns ih =>
    rw [List.forall_mem_cons] at hns
    have hrest := ih (bs := [' ']) isBlank_space hns.1 hns.2
    rw [operandsText_cons_cons, ← List.append_assoc, List.cons_append, splitCommas_append (comma_not_mem_piece hb n),
      List.mapM_cons, readNumber_piece hb hn]
    simp only [hrest]
    rfl

theorem readOperands_operandsText {ns : List Nat} (h : ∀ n ∈ ns, n < 10 ^ 10) :
    readOperands (operandsText ns) = some ns := by
  cases ns with
  | nil => rfl
  | cons n ns =>
    rw [readOperands, if_neg (operandsText_ne_nil n ns)]
    exact mapM_readNumber_operandsText (bs := []) (by simp) h

/-! ### Lines -/

theorem mnemonicText_ne_nil (m : Mnemonic) : mnemonicText m ≠ [] := by cases m <;> decide

theorem not_isBlank_of_mem_mnemonicText {m : Mnemonic} {c : Char} (h : c ∈ mnemonicText m) : isBlank c = false := by
  have hall : (mnemonicText m).all (fun c => isBlank c == false) = true := by cases m <;> decide
  exact beq_iff_eq.1 (List.all_eq_true.1 hall c h)

theorem semicolon_not_mem_mnemonicText (m : Mnemonic) : ';' ∉ mnemonicText m := by cases m <;> decide

theorem readMnemonic_mnemonicText (m : Mnemonic) : readMnemonic (mnemonicText m) = some m := by cases m <;> decide

/-- What a line writes after its mnemonic. -/
def operandPart (ns : List Nat) : List Char := if ns = [] then [] else ' ' :: operandsText ns

theorem lineText_eq (l : SourceLine) : lineText l = mnemonicText l.mnemonic ++ operandPart l.operands := rfl

theorem trimBlanks_operandPart (ns : List Nat) : trimBlanks (operandPart ns) = operandsText ns := by
  cases ns with
  | nil => rfl
  | cons n ns => exact trimBlanks_append (bs := [' ']) isBlank_space (trimmed_operandsText n ns)

theorem stripComment_lineText (l : SourceLine) : stripComment (lineText l) = lineText l := by
  have hmem : ';' ∉ lineText l := by
    obtain ⟨m, ns⟩ := l
    cases ns <;> simp [lineText_eq, operandPart, semicolon_not_mem_mnemonicText, semicolon_not_mem_operandsText]
  exact List.takeWhile_eq_self_iff.2 fun c hc => bne_iff_ne.2 fun h => hmem (h ▸ hc)

theorem trimBlanks_lineText (l : SourceLine) : trimBlanks (lineText l) = lineText l := by
  have hm : Trimmed (mnemonicText l.mnemonic) := trimmed_of_not_isBlank fun _ => not_isBlank_of_mem_mnemonicText
  apply Trimmed.trimBlanks_eq
  obtain ⟨m, ns⟩ := l
  cases ns with
  | nil => simpa [lineText_eq, operandPart] using hm
  | cons n ns => exact hm.append (mnemonicText_ne_nil m) (trimmed_operandsText n ns) (operandsText_ne_nil n ns) [' ']

/-- The mnemonic of a line ends at its first blank. -/
theorem takeWhile_lineText (l : SourceLine) :
    ((lineText l).takeWhile fun c => !isBlank c) = mnemonicText l.mnemonic := by
  obtain ⟨m, ns⟩ := l
  rw [lineText_eq, List.takeWhile_append_of_pos fun c hc => by rw [not_isBlank_of_mem_mnemonicText hc]; rfl]
  cases ns <;> simp [operandPart, isBlank]

/-- A printed line reads back, when ten digits are enough for its operands. -/
theorem parseLine_lineText {l : SourceLine} (h : ∀ n ∈ l.operands, n < 10 ^ 10) : parseLine (lineText l) = some l := by
  have hops : readOperands (trimBlanks ((lineText l).drop (mnemonicText l.mnemonic).length)) = some l.operands := by
    rw [lineText_eq, List.drop_left, trimBlanks_operandPart, readOperands_operandsText h]
  simp only [parseLine, stripComment_lineText, trimBlanks_lineText, takeWhile_lineText, readMnemonic_mnemonicText, hops]

theorem operands_lt (i : Instr) : ∀ n ∈ i.sourceLine.operands, n < 10 ^ 10 := by
  cases i <;> simp only [Instr.sourceLine, List.forall_mem_cons, List.not_mem_nil, false_imp_iff, implies_true,
    and_true] <;> omega

theorem assembleText_lineText (i : Instr) : assembleText (lineText i.sourceLine) = some (encode i) := by
  rw [assembleText, parseLine_lineText (operands_lt i), Option.bind_some, assembleWord_sourceLine]

/-! ### Illegal words -/

theorem hexText_eq (w : Word32) : hexText w =
    ([7, 6, 5, 4, 3, 2, 1, 0].map fun k => (w.extractLsb' (4 * k) 4).toNat).map hexDigitText := by
  rw [hexText, List.map_map]
  rfl

theorem readNumber_hexText (w : Word32) : readNumber (['0', 'x'] ++ hexText w) = some w.toNat := by
  change readDigits 16 hexDigit (hexText w) 0 = _
  rw [hexText_eq, readDigits_map]
  · simp only [List.map_cons, List.map_nil, List.foldl_cons, List.foldl_nil, toNat_extractLsb', Option.some.injEq]
    omega
  · rintro d hd
    obtain ⟨k, -, rfl⟩ := List.mem_map.1 hd
    exact hexDigit_hexDigitText (BitVec.isLt _)

theorem exists_trimBlanks_cons {c : Char} (hc : isBlank c = false) (cs : List Char) :
    ∃ ds, trimBlanks (c :: cs) = c :: ds := by
  have hne : (c :: cs).rdropWhile isBlank ≠ [] := fun h => by
    simpa [hc] using List.rdropWhile_eq_nil_iff.1 h c List.mem_cons_self
  obtain ⟨d, ds, hds⟩ := List.exists_cons_of_ne_nil hne
  have hprefix := List.rdropWhile_prefix isBlank (c :: cs)
  rw [hds, List.cons_prefix_cons] at hprefix
  rw [trimBlanks, List.dropWhile_cons_of_neg (by simp [hc])]
  exact ⟨ds, hprefix.1 ▸ hds⟩

theorem readMnemonic_dot (cs : List Char) : readMnemonic ('.' :: cs) = none := by
  simp [readMnemonic, mnemonicText]

/-- A text that starts with a `.` stays one when it is trimmed, so its first word is no mnemonic. -/
theorem assembleText_dot (cs : List Char) : assembleText ('.' :: cs) = none := by
  have hdot : isBlank '.' = false := by decide
  obtain ⟨ds, hds⟩ := exists_trimBlanks_cons hdot (stripComment cs)
  have hbody : trimBlanks (stripComment ('.' :: cs)) = '.' :: ds := hds
  simp [assembleText, parseLine, hbody, hdot, readMnemonic_dot]

/-- Settles O47: a legal word's line reads back as the line and assembles to the command's one word; an illegal word's text
starts with a `.`, and its digits are the word's, by Horner's rule. -/
theorem disassemblyReassembles : Obligations.DisassemblyReassembles := by
  refine fun w => ⟨fun i hi => ?_, fun e he => ?_⟩
  · have htext : disassemble w = lineText i.sourceLine := by rw [disassemble, hi]
    exact ⟨htext, by rw [htext, assembleText_lineText, encode_of_decode hi]⟩
  · have htext : disassemble w = ['.', 'w', 'o', 'r', 'd', ' ', '0', 'x'] ++ hexText w := by rw [disassemble, he]
    exact ⟨htext, rfl, readNumber_hexText w, by rw [htext]; exact assembleText_dot _⟩

end Sys2Proof.Machine
end

section
/-! PROOF. The construction (spec 40_construct.md R66 to R71; 41_keystream.md R73): the model's PRGA steps and key
schedule are those of the rules; what KEYB, SETDROP and INIT answer; and the commands of CONSTRUCT in any order. -/

namespace Sys2Proof.Machine

/-! ### The model's construction is the rules' -/

theorem prgaStepRule_prgaStep (c : Cipher) : PrgaStepRule c (prgaStep c) :=
  ⟨BitVec.toNat_add _ _, BitVec.toNat_add _ _, tableRead_tableSwap c.S _ _⟩

/-- The trace is the model's own steps. -/
theorem prgaRun_prgaSteps (n : Nat) (c : Cipher) : PrgaRun n c (prgaSteps n c) := by
  refine ⟨fun m => prgaSteps m c, rfl, rfl, fun m _ => ?_⟩
  beta_reduce
  rw [prgaSteps_succ]
  exact prgaStepRule_prgaStep _

theorem ksaAfter_jk_toNat (K : Table) (L n : Nat) :
    (ksaAfter K L (n + 1)).2.toNat =
      ((ksaAfter K L n).2.toNat + (tableRead (ksaAfter K L n).1 (BitVec.ofNat 8 n)).toNat +
        (tableRead K (BitVec.ofNat 8 (n % L))).toNat) % 256 := by
  rw [ksaAfter, ksaStep, BitVec.toNat_add, BitVec.toNat_add, Nat.mod_add_mod]

/-- The table and the accumulator of each step are the model's own. -/
theorem keyScheduled_keySchedule (K : Table) (L : Nat) : KeyScheduled K L (keySchedule K L) :=
  ⟨fun n => (ksaAfter K L n).1, fun n => (ksaAfter K L n).2, tableRead_identityTable, rfl, rfl,
    fun n _ => ⟨ksaAfter_jk_toNat K L n, tableRead_tableSwap _ _ _⟩⟩

theorem constructedBy_constructCipher (K : Table) (L d : Nat) : ConstructedBy K L d (constructCipher K L d) :=
  ⟨keySchedule K L, keyScheduled_keySchedule K L, prgaRun_prgaSteps d _⟩

/-- The key schedule reads no key byte past the length. -/
theorem SameKey.constructCipher_eq {klen : KeyLen} {s s' : State} (h : SameKey s s' klen.toNat)
    (hl : LegalKeyLength klen) (d : Nat) : constructCipher s.K klen.toNat d = constructCipher s'.K klen.toNat d := by
  rw [constructCipher, constructCipher, keySchedule, keySchedule, ksaAfter_congr hl.1 hl.2 h]

/-! ### INIT -/

theorem legalKeyLength_iff {klen : KeyLen} : LegalKeyLength klen ↔ ¬ (klen.toNat = 0 ∨ 256 < klen.toNat) := by
  unfold LegalKeyLength
  omega

theorem execInit_rejects {klen : KeyLen} (hl : ¬ LegalKeyLength klen) (s : State) :
    ∃ t, exec (.init klen) s = .next t ∧ Responds t 1#3 0x00#8 ∧ SameEngine s t ∧ SameHandshake s t :=
  ⟨_, execInit_illegal hl, rfl, by simp [SameEngine], by simp [SameHandshake]⟩

theorem execInit_constructs {klen : KeyLen} {s : State} (hl : LegalKeyLength klen) (hk : KeyLoaded s klen.toNat) :
    ∃ t, exec (.init klen) s = .next t ∧ Responds t 0#3 0x00#8 ∧ t.state = .ready ∧
      ConstructedBy s.K klen.toNat s.dropN.toNat t.cipher ∧
      t.K = s.K ∧ t.KW = s.KW ∧ t.dropN = s.dropN ∧ SameHandshake s t :=
  ⟨_, execInit_loaded hl hk, rfl, rfl, constructedBy_constructCipher _ _ _, rfl, rfl, rfl, by simp [SameHandshake]⟩

/-- An INIT of a legal length that answers a next state read a written key. -/
theorem execInit_legal_next {klen : KeyLen} {s t : State} (hl : LegalKeyLength klen)
    (h : exec (.init klen) s = .next t) :
    KeyLoaded s klen.toNat ∧
      t = ((s.withCipher (constructCipher s.K klen.toNat s.dropN.toNat)).withPhase .ready).respond .ok 0x00#8 := by
  change execInit klen s = .next t at h
  obtain ⟨hbad, -⟩ | ⟨-, a, -, -, e⟩ | ⟨-, hk, e⟩ := execInit_cases klen s
  · exact absurd hl hbad
  · cases e.symm.trans h
  · cases e.symm.trans h
    exact ⟨hk, rfl⟩

/-- A word is the command whose number in the assembly table it has. -/
theorem decode_of_number {w : Word32} {i : Instr} (h : w.toNat = i.sourceLine.number) : decode w = .ok i :=
  decode_eq_ok_iff.2 (encode_eq_iff.2 h)

theorem failsWith_of_illegalNumber {w : Word32} (h : IllegalNumber w.toNat) (s : State) : FailsWith w s 3#3 :=
  failsWith_of_decode_error (decode_error_iff.2 h) s

/-- Settles O15: the length check, the scan of the key and the construction are INIT's three cases. -/
theorem initConstructsEngine : Obligations.InitConstructsEngine := by
  refine ⟨fun klen s hbad => ?_, fun klen s hl hunwritten => ?_, fun klen s => execInit_constructs,
    fun w hop => ⟨?_, ?_⟩⟩
  · exact execInit_rejects (fun hl => legalKeyLength_iff.1 hl hbad) s
  · obtain ⟨hbad, -⟩ | ⟨-, a, ha, hw, e⟩ | ⟨-, hk, -⟩ := execInit_cases klen s
    · exact absurd hl hbad
    · exact ⟨a, ha, hw, e⟩
    · obtain ⟨b, hb, hw⟩ := hunwritten
      cases (hk b hb).symm.trans hw
  · intro hres
    apply decode_of_number
    rw [Instr.init_number, BitVec.toNat_ofNat]
    omega
  · intro hres
    exact failsWith_of_illegalNumber (.inr (.inr (.inr (.inl ⟨hop, hres⟩))))

/-- Settles O27: the identity is a permutation, and the swaps of the key schedule and of the PRGA steps keep it one. -/
theorem initEstablishesPermutation : Obligations.InitEstablishesPermutation :=
  fun _ _ hl hk => ⟨_, execInit_loaded hl hk, rfl, isPermutation_constructCipher _ _ _⟩

/-- A construction reads the key below its length and the drop count alone. -/
theorem SameKey.sameKeystream_init {klen : KeyLen} {s s' t t' : State} (h : SameKey s s' klen.toNat)
    (hl : LegalKeyLength klen) (hdrop : s.dropN = s'.dropN) (ht : exec (.init klen) s = .next t)
    (ht' : exec (.init klen) s' = .next t') : SameKeystream t t' := by
  obtain ⟨-, rfl⟩ := execInit_legal_next hl ht
  obtain ⟨-, rfl⟩ := execInit_legal_next hl ht'
  refine ⟨rfl, rfl, ?_⟩
  simp only [State.respond_cipher, State.withPhase_cipher, State.withCipher_cipher, h.constructCipher_eq hl, hdrop]

theorem decode_ne_init_of_mem_transformWords {data : List Byte} {w : Word32} (h : w ∈ transformWords data)
    (klen : KeyLen) : decode w ≠ .ok (.init klen) := by
  obtain ⟨d, -, rfl⟩ := List.mem_map.1 h
  simp [decode_encode]

/-- Settles O37: the two INITs leave the same keystream, from which a buffer's words are answered. -/
theorem constructionIsDeterministic : Obligations.ConstructionIsDeterministic := by
  intro klen s s' t t' hl hkey hdrop ht ht'
  have hsame := hkey.sameKeystream_init hl hdrop ht ht'
  refine ⟨hsame.cipher, fun data => ?_⟩
  obtain ⟨u, u', rs, hu, hu', -⟩ := hsame.transact_next (ws := transformWords data)
    fun _ hw => decode_ne_init_of_mem_transformWords hw
  exact ⟨u, u', rs, hu, hu'⟩

/-! ### KEYB and SETDROP -/

/-- A KEYB past the end of the key leaves the key as it was. -/
theorem sameKey_withKeyByte {idx : Byte} {L : Nat} (h : L ≤ idx.toNat) (kdata : Byte) (s : State) :
    SameKey (s.withKeyByte idx kdata) s L := by
  intro a ha
  have hne : a ≠ idx := by rintro rfl; omega
  rw [State.withKeyByte_K, tableRead_tableWrite, if_neg hne]

theorem KeyLoaded.withKeyByte {s : State} {L : Nat} (h : KeyLoaded s L) (idx kdata : Byte) :
    KeyLoaded (s.withKeyByte idx kdata) L := by
  intro a ha
  simp [keyByteWritten_withKeyByte, h a ha]

/-- An INIT of a length up to `IDX` does not see the byte a KEYB has written. -/
theorem execInit_after_keyb {klen : KeyLen} {idx kdata : Byte} {s u : State} (hidx : klen.toNat ≤ idx.toNat)
    (h : exec (.init klen) s = .next u) :
    ∃ v, exec (.init klen) ((s.withKeyByte idx kdata).respond .ok 0x00#8) = .next v ∧ v.cipher = u.cipher ∧
      v.rsp = u.rsp := by
  by_cases hl : LegalKeyLength klen
  · obtain ⟨hk, rfl⟩ := execInit_legal_next hl h
    exact ⟨_, execInit_loaded (s := (s.withKeyByte idx kdata).respond .ok 0x00#8) hl (hk.withKeyByte idx kdata),
      (sameKey_withKeyByte hidx kdata s).constructCipher_eq hl s.dropN.toNat, by simp⟩
  · cases (execInit_illegal hl).symm.trans h
    exact ⟨_, execInit_illegal hl, rfl, rfl⟩

/-- Settles O13: KEYB is one write to `K` and one to `KW`, neither of which a shorter key's INIT reads. -/
theorem keybWritesOneKeyByte : Obligations.KeybWritesOneKeyByte := by
  refine ⟨fun idx kdata s => ⟨_, rfl, rfl, fun a => ?_, fun a => ?_, rfl, rfl, rfl, by simp [SameHandshake],
    fun klen u => execInit_after_keyb⟩, fun w hop => ⟨?_, ?_⟩⟩
  · exact tableRead_tableWrite s.K idx kdata a
  · rw [State.keyByteWritten_respond, keyByteWritten_withKeyByte, Bool.or_eq_true, beq_iff_eq]
  · intro hres
    apply decode_of_number
    rw [Instr.keyb_number, BitVec.toNat_ofNat, BitVec.toNat_ofNat]
    omega
  · intro hres
    exact failsWith_of_illegalNumber (.inr (.inr (.inl ⟨hop, hres⟩)))

/-- Settles O14: SETDROP is one write to `DROPN`, and an INIT's drop runs on from the same INIT with no drop. -/
theorem setdropWritesDropCount : Obligations.SetdropWritesDropCount := by
  refine ⟨fun cnt s => ⟨_, rfl, rfl, rfl, rfl, rfl, rfl, rfl, by simp [SameHandshake], fun klen hl hk => ?_⟩, rfl,
    fun w hop => ?_⟩
  · exact ⟨_, _, execInit_loaded (s := { s with dropN := 0#28 }) hl hk,
      execInit_loaded (s := (s.withDropN cnt).respond .ok 0x00#8) hl hk, prgaRun_prgaSteps cnt.toNat _⟩
  · apply decode_of_number
    rw [Instr.setdrop_number, BitVec.toNat_ofNat]
    omega

/-! ### The commands of CONSTRUCT -/

/-- Two runs, one after the other. -/
theorem transact_append {ws ws' : List Word32} {s t u : State} {rs rs' : List Word16}
    (h : transact ws s = .next (t, rs)) (h' : transact ws' t = .next (u, rs')) :
    transact (ws ++ ws') s = .next (u, rs ++ rs') := by
  induction ws generalizing s rs with
  | nil => cases h; exact h'
  | cons w ws ih =>
    obtain ⟨v, rest, hw, hws, rfl⟩ := transact_cons_eq_next.1 h
    exact transact_cons_eq_next.2 ⟨v, rest ++ rs', hw, ih hws, rfl⟩

/-- The commands that stage a construction, in one order of theirs (R69). -/
def stagingCommands (key : List Byte) (d : Count) : List Instr := .setdrop d :: keyCommands key

theorem mem_stagingCommands {key : List Byte} {d : Count} {i : Instr} :
    i ∈ stagingCommands key d ↔
      i = .setdrop d ∨ ∃ (n : Nat) (h : n < key.length), i = .keyb (BitVec.ofNat 8 n) key[n] := by
  rw [stagingCommands, List.mem_cons, keyCommands, List.mem_map]
  refine or_congr_right ⟨?_, ?_⟩
  · rintro ⟨⟨v, n⟩, hmem, rfl⟩
    obtain ⟨h, hv⟩ := List.getElem?_eq_some_iff.1 (List.mem_zipIdx_iff_getElem?.1 hmem)
    exact ⟨n, h, congrArg _ hv.symm⟩
  · rintro ⟨n, h, rfl⟩
    exact ⟨(key[n], n), List.mem_zipIdx_iff_getElem?.2 (List.getElem?_eq_getElem h), rfl⟩

/-- What a staging command writes stands in the state. -/
def Staged : Instr → State → Prop
  | .keyb idx kdata, s => tableRead s.K idx = kdata ∧ s.keyByteWritten idx = true
  | .setdrop cnt, s => s.dropN = cnt
  | _, _ => True

/-- A staging command does its write and undoes no other's: two KEYBs of one index are the same command. -/
theorem exec_stagingCommand {key : List Byte} {d : Count} (hlen : key.length ≤ 256) {i : Instr}
    (hi : i ∈ stagingCommands key d) (s : State) :
    ∃ t, exec i s = .next t ∧ Staged i t ∧ ∀ j ∈ stagingCommands key d, Staged j s → Staged j t := by
  obtain rfl | ⟨n, hn, rfl⟩ := mem_stagingCommands.1 hi
  · refine ⟨_, rfl, rfl, fun j hj hs => ?_⟩
    obtain rfl | ⟨m, hm, rfl⟩ := mem_stagingCommands.1 hj
    · rfl
    · exact hs
  · refine ⟨_, rfl, ?_, fun j hj hs => ?_⟩
    · simp [Staged, tableRead_tableWrite, keyByteWritten_withKeyByte]
    · obtain rfl | ⟨m, hm, rfl⟩ := mem_stagingCommands.1 hj
      · exact hs
      · obtain ⟨hread, hwritten⟩ := hs
        refine ⟨?_, by simp [keyByteWritten_withKeyByte, hwritten]⟩
        rw [State.respond_K, State.withKeyByte_K, tableRead_tableWrite]
        split_ifs with hidx
        · have hmn := congrArg BitVec.toNat hidx
          rw [BitVec.toNat_ofNat, BitVec.toNat_ofNat, Nat.mod_eq_of_lt (by omega), Nat.mod_eq_of_lt (by omega)] at hmn
          simp only [hmn]
        · exact hread

/-- A run of staging commands completes, and what any of them writes stands at its end. -/
theorem transact_stagingCommands {key : List Byte} {d : Count} (hlen : key.length ≤ 256) {cmds : List Instr}
    (hcmds : ∀ i ∈ cmds, i ∈ stagingCommands key d) (s : State) :
    ∃ t rs, transact (cmds.map encode) s = .next (t, rs) ∧
      ∀ j ∈ stagingCommands key d, j ∈ cmds ∨ Staged j s → Staged j t := by
  induction cmds generalizing s with
  | nil => exact ⟨s, [], rfl, fun j _ hj => hj.resolve_left List.not_mem_nil⟩
  | cons i cmds ih =>
    obtain ⟨u, hu, hstaged, hkeep⟩ := exec_stagingCommand hlen (hcmds i List.mem_cons_self) s
    obtain ⟨t, rs, ht, hall⟩ := ih (fun j hj => hcmds j (List.mem_cons_of_mem i hj)) u
    refine ⟨t, u.rsp :: rs, transact_cons_eq_next.2 ⟨u, rs, ?_, ht, rfl⟩, fun j hj hor => hall j hj ?_⟩
    · rw [execWord_ok (decode_encode i), hu]
    · obtain hmem | hs := hor
      · obtain rfl | hmem := List.mem_cons.1 hmem
        · exact .inr hstaged
        · exact .inl hmem
      · exact .inr (hkeep j hj hs)

/-- Settles O38: after the staging commands, in whatever order, the key and the drop count stand in the state, and INIT
constructs from them; a length above 256 is rejected. -/
theorem constructCommandsBuildEngine : Obligations.ConstructCommandsBuildEngine := by
  refine ⟨fun key d cmds s hpos hlen hperm => ?_, fun n s hn hn' => ?_⟩
  · obtain ⟨u, rs, hu, hstaged⟩ := transact_stagingCommands hlen (fun _ => hperm.mem_iff.1) s
    have hall : ∀ j ∈ stagingCommands key d, Staged j u := fun j hj => hstaged j hj (.inl (hperm.mem_iff.2 hj))
    have hdrop : u.dropN = d := hall (.setdrop d) (mem_stagingCommands.2 (.inl rfl))
    have hkey (n : Nat) (h : n < key.length) : Staged (.keyb (BitVec.ofNat 8 n) key[n]) u :=
      hall _ (mem_stagingCommands.2 (.inr ⟨n, h, rfl⟩))
    have hklen : (BitVec.ofNat 9 key.length).toNat = key.length := by
      rw [BitVec.toNat_ofNat, Nat.mod_eq_of_lt (by omega)]
    have hloaded : KeyLoaded u (BitVec.ofNat 9 key.length).toNat := fun a ha => by
      simpa using (hkey a.toNat (hklen ▸ ha)).2
    obtain ⟨t, ht, -, hready, hcipher, hK, -⟩ := execInit_constructs (by unfold LegalKeyLength; omega) hloaded
    rw [hklen, hdrop, ← hK] at hcipher
    refine ⟨t, rs ++ [t.rsp], ?_, hready, fun n h => ?_, hcipher⟩
    · rw [List.map_append]
      exact transact_append hu (transact_cons_eq_next.2 ⟨t, [], by rw [execWord_ok (decode_encode _), ht], rfl, rfl⟩)
    · rw [hK]
      exact (hkey n h).1
  · rw [FailsWith, execWord_ok (decode_encode _)]
    refine execInit_rejects (fun hl => ?_) s
    have hle : (BitVec.ofNat 9 n).toNat ≤ 256 := hl.2
    rw [BitVec.toNat_ofNat] at hle
    omega

end Sys2Proof.Machine
end

section
/-! PROOF. DROP and XFORM (spec 41_keystream.md R73 to R75): what one PRGA step reads and writes, and what the two
commands answer in each `STATE`. -/

namespace Sys2Proof.Machine

/-! ### The PRGA step -/

/-- Swapping an entry with itself (R10). -/
theorem tableSwap_self (t : Table) (a : Byte) : tableSwap t a a = t := by
  apply table_ext
  intro x
  rw [tableRead_tableSwap]
  split_ifs with hx
  · rw [hx]
  · rfl

theorem prgaStep_S_of_J_eq_I {c : Cipher} (h : (prgaStep c).J = (prgaStep c).I) : (prgaStep c).S = c.S := by
  change tableSwap c.S (prgaStep c).I (prgaStep c).J = c.S
  rw [h, tableSwap_self]

theorem prgaSteps_I_toNat (m : Nat) (c : Cipher) : (prgaSteps m c).I.toNat = (c.I.toNat + m) % 256 := by
  rw [prgaSteps_I, BitVec.toNat_add, BitVec.toNat_ofNat, Nat.add_mod_mod]

/-- Two tables that agree on the two entries of a swap agree on them after it. -/
theorem tableRead_tableSwap_congr {t u : Table} {a b : Byte} (h : ∀ x, x = a ∨ x = b → tableRead t x = tableRead u x) :
    ∀ x, x = a ∨ x = b → tableRead (tableSwap t a b) x = tableRead (tableSwap u a b) x := by
  intro x hx
  rw [tableRead_tableSwap, tableRead_tableSwap, h a (.inl rfl), h b (.inr rfl), h x hx]

/-- The new `J` comes from the old indices and the entry at the new `I` alone. -/
theorem prgaStep_J_congr {c d : Cipher} (hI : d.I = c.I) (hJ : d.J = c.J)
    (hS : tableRead d.S (prgaStep c).I = tableRead c.S (prgaStep c).I) : (prgaStep d).J = (prgaStep c).J := by
  change d.J + tableRead d.S (d.I + 1#8) = c.J + tableRead c.S (prgaStep c).I
  rw [hJ, hI, ← hS]
  rfl

/-- Settles O17: the step is the rule's, and the two indices are found before the swap that reads at them. -/
theorem prgaStepFollowsRule : Obligations.PrgaStepFollowsRule := by
  refine fun c => ⟨prgaStepRule_prgaStep c, prgaStep_S_of_J_eq_I, fun m => prgaSteps_I_toNat m c,
    fun d hI hJ hS => ?_⟩
  have hI' : (prgaStep d).I = (prgaStep c).I := congrArg (· + 1#8) hI
  have hJ' : (prgaStep d).J = (prgaStep c).J := prgaStep_J_congr hI hJ (hS _ (.inl rfl))
  refine ⟨hI', hJ', ?_⟩
  change ∀ a, _ → tableRead (tableSwap d.S (prgaStep d).I (prgaStep d).J) a = _
  rw [hI', hJ']
  exact tableRead_tableSwap_congr hS

/-! ### The two commands -/

/-- A failure is a response and nothing else (R91). -/
theorem raiseStatus_only_responds (s : State) (c : Status) :
    Responds (s.raiseStatus c) c.code 0x00#8 ∧ SameEngine s (s.raiseStatus c) ∧ SameHandshake s (s.raiseStatus c) :=
  ⟨rfl, by simp [SameEngine], by simp [SameHandshake]⟩

/-- Settles O18: while `Ready` DROP writes the cipher of the model's own `CNT` steps. -/
theorem dropAdvancesKeystream : Obligations.DropAdvancesKeystream := by
  refine ⟨fun cnt s hs => ?_, fun cnt s hs => ?_, fun w hop => ?_⟩
  · exact ⟨_, execDrop_ready hs, rfl, prgaRun_prgaSteps cnt.toNat s.cipher, hs, rfl, rfl, rfl, by simp [SameHandshake]⟩
  · exact ⟨_, execDrop_uninitialized hs, raiseStatus_only_responds s .notReady⟩
  · apply decode_of_number
    rw [Instr.drop_number, BitVec.toNat_ofNat]
    omega

/-- Settles O19: while `Ready` XFORM writes the cipher of one step and reads `t` and `S[t]` in it. -/
theorem xformTransformsByte : Obligations.XformTransformsByte := by
  refine ⟨fun din s hs => ?_, fun din s hs => ?_, fun w hop => ⟨fun hres => ?_, fun hres s => ?_⟩⟩
  · exact ⟨_, _, execXform_ready hs, prgaStepRule_prgaStep s.cipher, BitVec.toNat_add _ _, rfl, hs, rfl, rfl, rfl,
      by simp [SameHandshake]⟩
  · exact ⟨_, execXform_uninitialized hs, raiseStatus_only_responds s .notReady⟩
  · apply decode_of_number
    rw [Instr.xform_number, BitVec.toNat_ofNat]
    omega
  · exact failsWith_of_illegalNumber (.inr (.inr (.inr (.inr ⟨hop, hres⟩)))) s

end Sys2Proof.Machine
end

section
/-! PROOF. Streams (spec 41_keystream.md R76, R77): the XFORMs of a buffer give each byte XORed with its own keystream
byte, and the same keystream a second time gives the buffer back. -/

namespace Sys2Proof.Machine

/-- What a buffer becomes from the cipher `c` on: byte `n` is XORed with the keystream byte read after `n + 1` steps. -/
def streamOutput (data : List Byte) (c : Cipher) : List Byte :=
  data.mapIdx fun n d => d ^^^ keystreamByte (prgaSteps (n + 1) c)

/-- The first byte takes the next step's keystream byte, and the rest go on from there. -/
theorem streamOutput_cons (d : Byte) (ds : List Byte) (c : Cipher) :
    streamOutput (d :: ds) c = (d ^^^ keystreamByte (prgaStep c)) :: streamOutput ds (prgaStep c) := List.mapIdx_cons

theorem length_streamOutput (data : List Byte) (c : Cipher) : (streamOutput data c).length = data.length :=
  List.length_mapIdx

/-- XOR with the same keystream twice gives the buffer back. -/
theorem streamOutput_streamOutput (data : List Byte) (c : Cipher) : streamOutput (streamOutput data c) c = data := by
  induction data generalizing c with
  | nil => rfl
  | cons d ds ih => rw [streamOutput_cons, streamOutput_cons, ih, BitVec.xor_assoc, BitVec.xor_self, BitVec.xor_zero]

/-- An XFORM's word, run by a `Ready` engine. -/
theorem execWord_xform {d : Byte} {s : State} (hs : s.state = .ready) :
    ∃ t, execWord (encode (.xform d)) s = .next t ∧ t.state = .ready ∧ t.cipher = prgaStep s.cipher ∧
      rspDout t.rsp = d ^^^ keystreamByte (prgaStep s.cipher) := by
  obtain ⟨-, -, -, hdout⟩ := responseWord_fields s.state .ok (d ^^^ keystreamByte (prgaStep s.cipher))
  exact ⟨_, (execWord_ok (decode_encode _) s).trans (execXform_ready hs), hs, rfl, hdout⟩

/-- A buffer's words, run by a `Ready` engine: one step and one output a byte. -/
theorem transact_transformWords (data : List Byte) {s : State} (hs : s.state = .ready) :
    ∃ t rs, transact (transformWords data) s = .next (t, rs) ∧ t.cipher = prgaSteps data.length s.cipher ∧
      rs.map rspDout = streamOutput data s.cipher := by
  induction data generalizing s with
  | nil => exact ⟨s, [], rfl, rfl, rfl⟩
  | cons d ds ih =>
    obtain ⟨u, hu, hready, hcipher, hdout⟩ := execWord_xform (d := d) hs
    obtain ⟨t, rs, ht, hend, houts⟩ := ih hready
    refine ⟨t, u.rsp :: rs, transact_cons_eq_next.2 ⟨u, rs, hu, ht, rfl⟩, ?_, ?_⟩
    · rw [hend, hcipher]
      rfl
    · rw [List.map_cons, hdout, houts, hcipher, streamOutput_cons]

theorem transformWords_append (a b : List Byte) : transformWords (a ++ b) = transformWords a ++ transformWords b :=
  List.map_append

/-- Settles O39: the buffer's run uses up its length in keystream, and a cut buffer's words are two runs in a row. -/
theorem streamingEquivalence : Obligations.StreamingEquivalence := by
  refine ⟨fun data s hs => ?_, fun a b s t u ra rb ha hb => ?_⟩
  · obtain ⟨t, rs, ht, hcipher, houts⟩ := transact_transformWords data hs
    have hlen : rs.length = data.length := by rw [← length_streamOutput data s.cipher, ← houts, List.length_map]
    refine ⟨t, rs, ht, hcipher ▸ prgaRun_prgaSteps _ _, ?_, hlen, fun n h h' => ⟨_, prgaRun_prgaSteps (n + 1) _, ?_⟩⟩
    · rintro rfl
      cases ht
      rfl
    · calc rspDout rs[n]
        _ = (rs.map rspDout)[n]'(by simpa using h') := by rw [List.getElem_map]
        _ = (streamOutput data s.cipher)[n]'(by simpa [length_streamOutput] using h) := by simp only [houts]
        _ = data[n] ^^^ keystreamByte (prgaSteps (n + 1) s.cipher) := List.getElem_mapIdx
  · rw [transformWords_append]
    exact transact_append ha hb

/-- Settles O40: both engines start from one cipher, and the second XORs the same keystream again. -/
theorem roundTripRestoresPlaintext : Obligations.RoundTripRestoresPlaintext := by
  intro klen s s' data hl hk hk' hkey hdrop
  obtain ⟨t, ht, -, hready, -⟩ := execInit_constructs hl hk
  obtain ⟨t', ht', -, hready', -⟩ := execInit_constructs hl hk'
  have hcipher : t.cipher = t'.cipher := (hkey.sameKeystream_init hl hdrop ht ht').cipher
  obtain ⟨u, rs, hu, -, houts⟩ := transact_transformWords data hready
  obtain ⟨u', rs', hu', -, houts'⟩ := transact_transformWords (rs.map rspDout) hready'
  refine ⟨t, t', u, u', rs, rs', ht, ht', hu, hu', ?_⟩
  rw [houts', houts, ← hcipher, streamOutput_streamOutput]

end Sys2Proof.Machine
end

section
/-! PROOF. Drop composition (spec 41_keystream.md R78): steps add up, whoever takes them. -/

namespace Sys2Proof.Machine

/-- A construction's own drop and the steps after it. -/
theorem prgaSteps_constructCipher (K : Table) (L d e : Nat) :
    prgaSteps e (constructCipher K L d) = constructCipher K L (d + e) := (prgaSteps_add d e _).symm

/-- Settles O41: each law adds up the PRGA steps of both sides. -/
theorem dropsCompose : Obligations.DropsCompose := by
  refine ⟨fun a b s hs hfit => ?_, fun n data s hs hlen => ?_, fun klen d e s hl hk => ?_⟩
  · refine ⟨_, _, _, execDrop_ready hs, execDrop_ready hs, execDrop_ready hs, ?_⟩
    rw [BitVec.toNat_add_of_lt hfit]
    exact (prgaSteps_add a.toNat b.toNat s.cipher).symm
  · obtain ⟨u, rs, hu, hcipher, -⟩ := transact_transformWords data hs
    exact ⟨_, u, rs, execDrop_ready hs, hu, by rw [hcipher, hlen]; rfl⟩
  · refine ⟨_, _, execInit_loaded (s := { s with dropN := d }) hl hk, execDrop_ready rfl, ?_, fun hfit =>
      ⟨_, execInit_loaded (s := { s with dropN := d + e }) hl hk, ?_⟩⟩
    · have h := constructedBy_constructCipher s.K klen.toNat (d.toNat + e.toNat)
      rwa [← prgaSteps_constructCipher] at h
    · rw [BitVec.toNat_add_of_lt hfit]
      exact prgaSteps_constructCipher s.K klen.toNat d.toNat e.toNat

end Sys2Proof.Machine
end

section
/-! PROOF. Control (spec 42_control.md R79 to R83; R86 to R90): NOP, the code and the next `STATE` of every executed word,
and the outcomes a word can have. -/

namespace Sys2Proof.Machine

/-! ### NOP -/

theorem decode_eq_nop_iff {w : Word32} : decode w = .ok .nop ↔ w = 0#32 := decode_eq_ok_iff.trans eq_comm

/-- Settles O12: NOP only responds, its word is the encoder's, and any other word of its opcode has a reserved bit that
is 1. -/
theorem nopReportsStatus : Obligations.NopReportsStatus := by
  refine ⟨fun s => ?_, fun w => decode_eq_nop_iff, fun w s hop hne => ?_⟩
  · exact ⟨_, rfl, rfl, by simp [SameEngine], by simp [SameHandshake]⟩
  · have hzero : w.toNat ≠ 0 := fun hz => hne (BitVec.eq_of_toNat_eq hz)
    exact failsWith_of_illegalNumber (.inr (.inl ⟨hop, by omega⟩)) s

/-! ### The state machine -/

@[simp] theorem rspCode_responseWord (p : Phase) (c : Status) (d : Byte) : rspCode (responseWord p c d) = c.code := by
  obtain ⟨-, -, hcode, -⟩ := responseWord_fields p c d
  exact hcode

/-- Only an INIT of a legal length writes `STATE`, and it writes `Ready` (R19, R83). -/
theorem execWord_ready_iff {w : Word32} {s t : State} (h : execWord w s = .next t) :
    t.state = .ready ↔ s.state = .ready ∨ ∃ klen, decode w = .ok (.init klen) ∧ LegalKeyLength klen := by
  cases wordEffect_of_next h with
  | initLoaded klen hd hl => exact iff_of_true rfl (.inr ⟨klen, hd, hl⟩)
  | initIllegal klen hd hl => simp [hd, hl]
  | illegal _ hd | nop hd | keyb _ _ hd | setdrop _ hd | dropNotReady _ hd | drop _ hd | xformNotReady _ hd | xform _ hd =>
    simp [hd]

/-- Settles O22: each effect of a word comes with the command, the length or the `STATE` that select its row of the table,
and raises that row's code. -/
theorem stateMachineFollowsTable : Obligations.StateMachineFollowsTable := by
  refine fun w s t h => ⟨?_, execWord_ready_iff h⟩
  cases wordEffect_of_next h with
  | illegal _ hd | nop hd | keyb _ _ hd | setdrop _ hd => simp [hd, Status.code]
  | initIllegal klen hd hl | initLoaded klen hd hl => simp [hd, hl, Status.code]
  | dropNotReady _ hd hs | drop _ hd hs | xformNotReady _ hd hs | xform _ hd hs => simp [hd, hs, Status.code]

/-! ### Every outcome -/

/-- Settles O23: the decoder selects the meaning, an illegal word is answered alone, and INIT's scan of the key is the one
thing that stops a word. -/
theorem everyWordHasItsOutcome : Obligations.EveryWordHasItsOutcome :=
  fun w s => ⟨fun _ hd => execWord_ok hd s, fun he => failsWith_of_decode_error he s, execWord_next_or_unwritten w s⟩

end Sys2Proof.Machine
end

section
/-! PROOF. Failures and instances (spec 60_exceptions.md R87, R91, R98): a failed command is a response and nothing else,
so a later INIT does not see it, and an edge at one engine of a platform writes that engine alone. -/

namespace Sys2Proof.Machine

/-! ### A failed INIT -/

/-- INIT does not read the response it finds. -/
theorem execInit_respond (klen : KeyLen) (s : State) (c : Status) (d : Byte) :
    execInit klen (s.respond c d) = execInit klen s := rfl

theorem not_legalKeyLength_iff {klen : KeyLen} : ¬ LegalKeyLength klen ↔ klen.toNat = 0 ∨ 256 < klen.toNat := by
  rw [legalKeyLength_iff, not_not]

theorem execInit_code_iff {klen : KeyLen} {s t : State} (h : execInit klen s = .next t) :
    rspCode t.rsp = 1#3 ↔ ¬ LegalKeyLength klen := by
  obtain ⟨hbad, e⟩ | ⟨-, a, -, -, e⟩ | ⟨hl, -, e⟩ := execInit_cases klen s <;> cases e.symm.trans h
  · simp [hbad, Status.code]
  · simp [hl, Status.code]

/-- Settles O16: the length check alone raises code 1, and the response it leaves is the one thing it writes. -/
theorem initRejectsBadLength : Obligations.InitRejectsBadLength := by
  refine ⟨fun klen s => ?_, fun bad good s t hbad h => ?_⟩
  · rw [← not_legalKeyLength_iff]
    refine ⟨?_, fun hl => ⟨_, execInit_illegal hl, (execInit_code_iff (execInit_illegal hl)).2 hl⟩⟩
    rintro ⟨t, h, hcode⟩
    exact (execInit_code_iff h).1 hcode
  · cases (execInit_illegal (not_legalKeyLength_iff.2 hbad)).symm.trans h
    exact execInit_respond good s _ _

/-! ### Any failure -/

/-- A word completes with code 0 or it does nothing but respond (R91). -/
theorem execWord_code_zero_or_raises {w : Word32} {s t : State} (h : execWord w s = .next t) :
    rspCode t.rsp = 0#3 ∨ ∃ c, t = s.raiseStatus c := by
  cases wordEffect_of_next h with
  | illegal | initIllegal | dropNotReady | xformNotReady => exact .inr ⟨_, rfl⟩
  | nop | keyb | setdrop | initLoaded | drop | xform => exact .inl (by simp [Status.code])

/-- Settles O21: a word that raises a code only responds, and the table of codes reads the word and `STATE` alone. -/
theorem failuresWriteNothing : Obligations.FailuresWriteNothing := by
  refine ⟨fun w s t h hcode => ?_, fun w s s' t t' hstate h h' => ?_⟩
  · obtain hzero | ⟨c, rfl⟩ := execWord_code_zero_or_raises h
    · exact absurd hzero hcode
    · exact (raiseStatus_only_responds s c).2
  · rw [(stateMachineFollowsTable w s t h).1, (stateMachineFollowsTable w s' t' h').1, hstate]

/-! ### Instances of a platform -/

theorem Platform.stepAt_eq_next {n : Nat} {p q : Platform n} {k : Fin n} :
    p.stepAt k = .next q ↔ ∃ t, step p[k] = .next t ∧ q = p.set k t := by
  unfold Platform.stepAt
  cases step p[k] <;> simp [eq_comm]

theorem Platform.getElem_set_ne {n : Nat} (p : Platform n) {j k : Fin n} (h : j ≠ k) (t : State) :
    (p.set k t)[j] = p[j] :=
  Vector.getElem_set_ne _ _ (Fin.val_ne_of_ne h.symm)

/-- Settles O44: an edge reads and writes the entry of its own engine, and writes to two entries commute. -/
theorem instancesAreIndependent : Obligations.InstancesAreIndependent := by
  intro n p q k hq
  obtain ⟨t, ht, rfl⟩ := Platform.stepAt_eq_next.1 hq
  refine ⟨by simpa using ht, fun j hj => p.getElem_set_ne hj t, fun j r hj hr => ?_⟩
  obtain ⟨u, hu, rfl⟩ := Platform.stepAt_eq_next.1 hr
  rw [p.getElem_set_ne hj t] at hu
  refine ⟨_, Platform.stepAt_eq_next.2 ⟨u, hu, rfl⟩, Platform.stepAt_eq_next.2 ⟨t, ?_, ?_⟩⟩
  · rw [p.getElem_set_ne hj.symm u, ht]
  · exact Vector.set_comm _ _ (Fin.val_ne_of_ne hj.symm)

end Sys2Proof.Machine
end

section
/-! PROOF. Reset and the idle engine (spec 70_reset_and_hazards.md R101, R102, R105): what an edge with `rst` = 1 and an
edge without a command leave, and what runs of such edges keep. -/

namespace Sys2Proof.Machine

/-- What every step keeps holds along every run. -/
theorem run_keeps {P : State → Prop} (hstep : ∀ s, P s → ∃ t, step s = .next t ∧ P t) (n : Nat) {s : State} (hs : P s) :
    ∃ u, Sys2Proof.core.run n s = .next u ∧ P u := by
  induction n generalizing s with
  | zero => exact ⟨s, rfl, hs⟩
  | succ n ih =>
    obtain ⟨t, ht, hp⟩ := hstep s hs
    rw [run_succ_of_next ht]
    exact ih hp

/-- What holds of every port value the host has listed, and of the idle ports, holds of the next ones (log 8). -/
theorem State.pins_of_forall_inputs {s : State} {q : Pins → Prop} (h : ∀ p ∈ s.inputs, q p) (hidle : q Pins.idle) :
    q s.pins := by
  unfold State.pins
  cases hin : s.inputs with
  | nil => exact hidle
  | cons p ps => exact h p (by simp [hin])

/-- A rising edge with `rst` = 1, whatever else holds (R101). -/
theorem step_of_rst {s : State} (hr : s.pins.rst = true) : step s = .next s.consumeInput.resetEdge := by
  rw [step, State.edge, if_pos hr]

/-- A rising edge at which an idle engine gets neither a reset nor a command (R105). -/
theorem step_of_idle {s : State} (hi : Idle s) (hr : s.pins.rst = false) (hv : s.pins.cmdValid = false) :
    step s = .next s.consumeInput := by
  obtain ⟨hb, -, hh⟩ := hi
  exact State.edge_idle hr (.inl hh) hb hv

@[simp] theorem State.keyByteWritten_resetEdge (s : State) (a : Byte) : s.resetEdge.keyByteWritten a = false := by
  simp [State.keyByteWritten]

/-- Settles O3: the edge is the reset edge, which writes every register named. -/
theorem resetEdgeClearsEngine : Obligations.ResetEdgeClearsEngine := fun s hr =>
  ⟨_, step_of_rst hr, rfl, rfl, s.consumeInput.keyByteWritten_resetEdge, rfl, rfl, rfl, rfl⟩

/-- The engine idle, its host without a command to send, the responses delivered so far `rs`. -/
def Silent (rs : List Word16) (s : State) : Prop :=
  Idle s ∧ (∀ p ∈ s.inputs, p.cmdValid = false) ∧ s.responses = rs

/-- With or without further resets. -/
theorem step_keeps_silent {rs : List Word16} {s : State} (h : Silent rs s) : ∃ t, step s = .next t ∧ Silent rs t := by
  obtain ⟨hi, hin, hresponses⟩ := h
  have hrest : ∀ p ∈ s.inputs.tail, p.cmdValid = false := fun p hp => hin p (List.mem_of_mem_tail hp)
  cases hr : s.pins.rst with
  | true => exact ⟨_, step_of_rst hr, ⟨rfl, rfl, rfl⟩, hrest, hresponses⟩
  | false => exact ⟨_, step_of_idle hi hr (State.pins_of_forall_inputs hin rfl), hi, hrest, hresponses⟩

/-- Settles O4: the reset leaves the engine silent, and every later edge that offers no command keeps it so. -/
theorem resetAbandonsCommand : Obligations.ResetAbandonsCommand := by
  intro s t hr ht
  obtain rfl : s.consumeInput.resetEdge = t := by simpa [step_of_rst hr] using ht
  refine ⟨rfl, rfl, rfl, fun hin n => ?_⟩
  have hsilent : Silent s.responses s.consumeInput.resetEdge := ⟨⟨rfl, rfl, rfl⟩, hin, rfl⟩
  obtain ⟨u, hu, ⟨hb, hv, -⟩, -, hresponses⟩ := run_keeps (fun _ => step_keeps_silent) n hsilent
  exact ⟨u, hu, hresponses, hb, hv⟩

/-- The same state with the port values of the next `n` edges taken off the host's list. -/
def State.consumeInputs (s : State) (n : Nat) : State := { s with inputs := s.inputs.drop n }

theorem State.consumeInputs_consumeInput (s : State) (n : Nat) :
    s.consumeInput.consumeInputs n = s.consumeInputs (n + 1) := by
  simp [State.consumeInput, State.consumeInputs]

/-- Edges with neither a reset nor a command use up port values and do nothing else to an idle engine. -/
theorem run_of_idle (n : Nat) {s : State} (hi : Idle s) (hin : ∀ p ∈ s.inputs, p.rst = false ∧ p.cmdValid = false) :
    Sys2Proof.core.run n s = .next (s.consumeInputs n) := by
  induction n generalizing s with
  | zero => rfl
  | succ n ih =>
    obtain ⟨hr, hv⟩ := State.pins_of_forall_inputs hin ⟨rfl, rfl⟩
    rw [run_succ_of_next (step_of_idle hi hr hv), ← s.consumeInputs_consumeInput]
    exact ih hi fun p hp => hin p (List.mem_of_mem_tail hp)

/-- Settles O5: such edges use up port values alone, and `State.reset` has none to use up. -/
theorem idleEngineNeverActs : Obligations.IdleEngineNeverActs := by
  refine ⟨fun n => ?_, fun n s hi hin => ⟨_, run_of_idle n hi hin, hi, ⟨rfl, rfl, rfl, rfl, rfl⟩, rfl⟩⟩
  rw [run_of_idle n ⟨rfl, rfl, rfl⟩ (by simp [State.reset])]
  simp [State.consumeInputs, State.reset]

end Sys2Proof.Machine
end
